-- ==== Sys2Proof/Word.lean ====
section
/-! DEFINITION. The machine's two bit-vector types: the 8-bit word and the 9-bit address (R6, R7). -/

namespace Sys2Proof

/-- A word: "an 8-bit unsigned value, the machine's native data size" (R8); bit 7 is the most
significant bit (R7). -/
abbrev Word := BitVec 8

/-- An effective address: 9 bits, 0x000 to 0x1FF, bit 8 is the region bit (R7, R25). -/
abbrev Addr := BitVec 9

end Sys2Proof
end

