-- ==== Sys2Proof/Syntax.lean ====
section
/-! DEFINITION. The instructions of cpu-sim CORE as syntax: one constructor of `Instr` per mnemonic of
spec/opcode_table.json, with the register, the addressing mode and the second word as its operands.
The names are those of the assembler convention R58. -/

namespace Sys2Proof

/-- The two general registers (R12). -/
inductive Reg where
  | acc
  | ix
deriving DecidableEq, Repr

/-- The seven addressing modes the B-field can select (R50). -/
inductive Mode where
  | acc
  | ix
  | imm
  | absP
  | absD
  | idxP
  | idxD
deriving DecidableEq, Repr

/-- The B operand of a two-operand instruction: an addressing mode with its second word, if it has one
(R46, R50). -/
inductive Operand where
  /-- `ACC`: the accumulator (R66). -/
  | acc
  /-- `IX`: the index register (R67). -/
  | ix
  /-- `d`: the second word itself (R68). -/
  | imm (d : Word)
  /-- `[d]`: absolute, program region (R69). -/
  | absP (d : Word)
  /-- `(d)`: absolute, data region (R70). -/
  | absD (d : Word)
  /-- `[IX+d]`: index-relative, program region (R71). -/
  | idxP (d : Word)
  /-- `(IX+d)`: index-relative, data region (R72). -/
  | idxD (d : Word)
deriving DecidableEq, Repr

/-- The B operand of `ST`: four memory modes, which name a destination, and three modes that decode but
yield no effective address (R87, R88). Of these three no second word is ever consumed, also not for
`IMM` (R53, R88), so `imm` carries none. -/
inductive Dest where
  | acc
  | ix
  | imm
  | absP (d : Word)
  | absD (d : Word)
  | idxP (d : Word)
  | idxD (d : Word)
deriving DecidableEq, Repr

/-- The sixteen branch conditions, by the source's names (R51, R113). -/
inductive Cond where
  | always
  | notZero
  | zeroOrPositive
  | positive
  | noInput
  | noCarry
  | signedGreaterOrEqual
  | signedGreater
  | onOverflow
  | zero
  | negative
  | zeroOrNegative
  | noOutput
  | carry
  | signedLess
  | signedLessOrEqual
deriving DecidableEq, Repr

/-- The two families of the shift/rotate format (R44, R52). -/
inductive Family where
  | shift
  | rotate
deriving DecidableEq, Repr

/-- The four sub-modes of the shift/rotate format (R52). -/
inductive SubMode where
  | rightArithmetic
  | leftArithmetic
  | rightLogical
  | leftLogical
deriving DecidableEq, Repr

/-- The eight instructions whose whole first word is the opcode (format FX, R45). -/
inductive FixedOp where
  | nop
  | jal
  | jr
  | hlt
  | out
  | inp
  | rcf
  | scf
deriving DecidableEq, Repr

/-- The ten instructions of the general two-operand form (format AB, R42). -/
inductive TwoOperandOp where
  | ld
  | st
  | sbc
  | adc
  | sub
  | add
  | eor
  | or
  | and
  | cmp
deriving DecidableEq, Repr

/-- One instruction. A `d` is the second word (R46). The eight shift/rotate constructors name the
register the A-field selects (R102), which for a given numbering the family may already fix (R44). -/
inductive Instr where
  /-- `NOP`, no-op (R79). -/
  | nop
  /-- `JAL d`, unconditional call-and-link (R130). -/
  | jal (d : Word)
  /-- `JR`, register-indirect jump (R131). -/
  | jr
  /-- `HLT`, halt (R80). -/
  | hlt
  /-- `OUT`, output (R84). -/
  | out
  /-- `IN`, input (R85). -/
  | inp
  /-- `RCF`, clear-carry (R81). -/
  | rcf
  /-- `SCF`, set-carry (R82). -/
  | scf
  /-- `BA d`, always (R114). -/
  | ba (d : Word)
  /-- `BNZ d`, not-zero (R115). -/
  | bnz (d : Word)
  /-- `BZP d`, zero-or-positive (R116). -/
  | bzp (d : Word)
  /-- `BP d`, positive (R117). -/
  | bp (d : Word)
  /-- `BNI d`, no-input (R118). -/
  | bni (d : Word)
  /-- `BNC d`, no-carry (R119). -/
  | bnc (d : Word)
  /-- `BGE d`, signed greater-or-equal (R120). -/
  | bge (d : Word)
  /-- `BGT d`, signed greater-than (R121). -/
  | bgt (d : Word)
  /-- `BVF d`, on overflow (R122). -/
  | bvf (d : Word)
  /-- `BZ d`, zero (R123). -/
  | bz (d : Word)
  /-- `BN d`, negative (R124). -/
  | bn (d : Word)
  /-- `BZN d`, zero-or-negative (R125). -/
  | bzn (d : Word)
  /-- `BNO d`, no-output (R126). -/
  | bno (d : Word)
  /-- `BC d`, carry (R127). -/
  | bc (d : Word)
  /-- `BLT d`, signed less-than (R128). -/
  | blt (d : Word)
  /-- `BLE d`, signed less-or-equal (R129). -/
  | ble (d : Word)
  /-- `SRA r`, arithmetic-right-shift (R103). -/
  | sra (r : Reg)
  /-- `SLA r`, decoded, not implemented (R105). -/
  | sla (r : Reg)
  /-- `SRL r`, decoded, not implemented (R106). -/
  | srl (r : Reg)
  /-- `SLL r`, decoded, not implemented (R107). -/
  | sll (r : Reg)
  /-- `RRA r`, decoded, not implemented (R108). -/
  | rra (r : Reg)
  /-- `RLA r`, decoded, not implemented (R109). -/
  | rla (r : Reg)
  /-- `RRL r`, decoded, not implemented (R110). -/
  | rrl (r : Reg)
  /-- `RLL r`, logical-rotate-left through the carry flag (R104). -/
  | rll (r : Reg)
  /-- `LD r, b`, load (R86). -/
  | ld (r : Reg) (b : Operand)
  /-- `ST r, b`, store (R87, R88). -/
  | st (r : Reg) (b : Dest)
  /-- `SBC r, b`, subtract-with-borrow (R95). -/
  | sbc (r : Reg) (b : Operand)
  /-- `ADC r, b`, add-with-carry (R92). -/
  | adc (r : Reg) (b : Operand)
  /-- `SUB r, b`, subtract (R94). -/
  | sub (r : Reg) (b : Operand)
  /-- `ADD r, b`, add (R91). -/
  | add (r : Reg) (b : Operand)
  /-- `EOR r, b`, bitwise exclusive OR (R101). -/
  | eor (r : Reg) (b : Operand)
  /-- `OR r, b`, bitwise OR (R100). -/
  | or (r : Reg) (b : Operand)
  /-- `AND r, b`, bitwise AND (R99). -/
  | and (r : Reg) (b : Operand)
  /-- `CMP r, b`, compare (R96). -/
  | cmp (r : Reg) (b : Operand)
deriving DecidableEq, Repr

end Sys2Proof
end

