-- ==== Sys2Proof/Config.lean ====
section
/-! DEFINITION. What is fixed for the machine and never changes while it runs: the types of the
parameters R6 names, the reset values, and the two free values the spec leaves open. The encoding's
numbers themselves stand in Decode.lean, the I/O-condition parameter in Machine/Operands.lean. -/

namespace Sys2Proof

/-- Which bit of a shift/rotate first word tells the families apart: the parameter `SHROT_FAMILY_BIT`
(R6, D5). -/
inductive FamilyBit where
  /-- Bit 3, which is also the A-field; bit 2 is not read (R44, the default). -/
  | bit3
  /-- Bit 2, beside the A-field in bit 3 (note D5, not the default). -/
  | bit2
deriving DecidableEq, Repr

/-- The numbers of the encoding, every one a parameter of the model (R6; D1 to D5). -/
structure EncodingParams where
  /-- `OPCODE_MAP`: the whole byte of each fixed instruction (R49). -/
  fixedByte : FixedOp → Word
  /-- `OPCODE_MAP`: the branch prefix (R49). -/
  branchPrefix : BitVec 4
  /-- `OPCODE_MAP`: the shift/rotate prefix (R49). -/
  shrotPrefix : BitVec 4
  /-- `OPCODE_MAP`: the prefix of each two-operand instruction (R49). -/
  twoOperandPrefix : TwoOperandOp → BitVec 4
  /-- `A_POLARITY`: the A-field value that selects `ix`; the other selects `acc` (R48). -/
  aSelectsIx : Bool
  /-- `B_MAP`: the B-field value of each addressing mode (R50). -/
  modeCode : Mode → BitVec 3
  /-- `CC_MAP`: the condition code of each predicate (R51). -/
  condCode : Cond → BitVec 4
  /-- `SHROT_FAMILY_BIT` (R44, R52). -/
  familyBit : FamilyBit
  /-- The family polarity: the family-bit value of the rotate family (R52). -/
  rotateBit : Bool
  /-- `SM_MAP`: the value of each sub-mode (R52). -/
  subModeCode : SubMode → BitVec 2

/-- The A-field value that selects register `r` (R48). -/
def EncodingParams.regBit (p : EncodingParams) : Reg → Bool
  | .acc => !p.aSelectsIx
  | .ix => p.aSelectsIx

/-- The register an A-field value selects (R48). -/
def EncodingParams.regOf (p : EncodingParams) (a : Bool) : Reg :=
  if a = p.aSelectsIx then .ix else .acc

/-- The family-bit value of a family (R52). -/
def EncodingParams.famBit (p : EncodingParams) : Family → Bool
  | .shift => !p.rotateBit
  | .rotate => p.rotateBit

/-- The family a family-bit value selects (R52). -/
def EncodingParams.famOf (p : EncodingParams) (f : Bool) : Family :=
  if f = p.rotateBit then .rotate else .shift

/-- The registers, flags and output flag as reset leaves them: the parameter `reset values` (R6, R151). -/
structure ResetValues where
  pc : Word
  acc : Word
  ix : Word
  c : Bool
  v : Bool
  n : Bool
  z : Bool
  obufFlag : Bool
deriving DecidableEq, Repr

/-- The values of the table of R151 (D14). -/
def Config.resetValues : ResetValues :=
  { pc := 0, acc := 0, ix := 0, c := false, v := false, n := false, z := false, obufFlag := false }

/-- The configuration of a machine: every parameter that R6 marks *parameter*. It is no state and never
changes (R20); the step, the meanings and reset take it as an argument (`Machine/Configured.lean`,
`State.resetWith`), so that a claim can name the choice it rests on. -/
structure MachineConfig where
  /-- `OPCODE_MAP`, `A_POLARITY`, `B_MAP`, `CC_MAP`, `SHROT_FAMILY_BIT`, family polarity, `SM_MAP`. -/
  encoding : EncodingParams
  /-- `IO_COND_WIRED` (R118, R126). -/
  ioCondWired : Bool
  /-- The reset values (R151). -/
  resetValues : ResetValues

/-- FREE VALUE (D17, U1; log entry 2): the word that stands at an address nothing has written since
power-on. "Memory words the loader has not written hold unspecified values" (R154): no body, so no
proof can know one. DESIGN CHOICE: it is one image, the same for every state, where D17 makes the image
an input of each run. -/
opaque Config.initialWord : Nat → Word

/-- FREE VALUE (D12, U3; log entry 3): the word that the n-th draw of `draw_8()` yields, "any of the
256 values, free at every use" (R7, R85): no body, so no proof can know one. -/
opaque Config.drawnWord : Nat → Word

end Sys2Proof
end

