-- ==== Sys2Proof/Machine/State.lean ====
section
/-! DEFINITION. The machine state as plain data, the outcome of a step as data, the reasons a step can
stop the model, and the state after reset. -/

namespace Sys2Proof.Machine

/-- The reasons of a halt outcome (R135). -/
inductive HaltReason where
  /-- The halt instruction was executed (R140). -/
  | haltInstruction
  /-- The first word is no instruction, or its B-field maps to no mode (R136). -/
  | decodeFailure
  /-- A shift or rotate that is decoded but not implemented (R137). -/
  | unsupportedSubMode
  /-- `ST` with a mode that yields no effective address (R138). -/
  | operandFetchFailure
deriving DecidableEq, Repr

/-- What a step returns to the driver (R60). -/
inductive StepOutcome where
  /-- `Continue`: "one more instruction may be executed". -/
  | continues
  /-- `Halt(reason)`. -/
  | halt (r : HaltReason)
deriving DecidableEq, Repr

/-- The four independent status flags (R13): carry or borrow, signed overflow, negative, zero. -/
structure Flags where
  c : Bool
  v : Bool
  n : Bool
  z : Bool
deriving DecidableEq, Repr

/-- A one-word buffer shared with the I/O collaborator: a flag and a byte (R17, R18). -/
structure IoBuffer where
  flag : Bool
  data : Word
deriving DecidableEq, Repr

/-- The words written so far, by address, addresses strictly rising (R16; log entry 2). An address that
is not listed holds whatever it held at power-on. -/
abbrev Memory := List Host.Cell

/-- The whole machine state (R9 to R20), and two fields of the model's own: `outcome` and `draws`. -/
structure State where
  /-- Program counter (R9). -/
  pc : Word
  /-- Accumulator (R10). -/
  acc : Word
  /-- Index register (R11). -/
  ix : Word
  /-- Status flags (R13). -/
  flags : Flags
  /-- Memory (R16). -/
  mem : Memory
  /-- Output buffer (R17). -/
  obuf : IoBuffer
  /-- Input buffer (R18). -/
  ibuf : IoBuffer
  /-- The model's own: the response the last step presented to the driver (R60, R153), none before the
  first step (R152). It is no state of the core (R20) and no step reads it (log entry 1). -/
  outcome : Option StepOutcome
  /-- The model's own: how many words `draw_8()` has drawn (R7, R85; log entry 3). -/
  draws : Nat
deriving DecidableEq, Repr

/-- No step of this hardware stops the machine: no access, fetch or alignment faults (R31, R33), every
requested step completes (R59, R160), and a halt leaves a state from which the next step runs (R20,
R143). So there is no fault to raise (log entry 5; safe). -/
inductive Fault where
deriving DecidableEq, Repr

/-- The refusals. -/
inductive Refusal where
  /-- Raised by `exec` for an instruction that has no meaning yet; no arm raises it in this model.
  Safe: nothing is claimed of such an instruction. -/
  | notModelled (mnemonic : String)
deriving DecidableEq, Repr

/-- The machine right after power-on and reset (R151): the registers, flags and `obuf.flag` at the
reset values of the configuration (R6), nothing written to memory. `obuf.data` and `ibuf`, which R151 leaves unspecified or
unwritten, hold the values log entry 4 names; no step has run, so there is no outcome (R152) and no
word has been drawn. -/
def State.resetWith (rv : ResetValues) : State where
  pc := rv.pc
  acc := rv.acc
  ix := rv.ix
  flags := ⟨rv.c, rv.v, rv.n, rv.z⟩
  mem := []
  obuf := ⟨rv.obufFlag, 0⟩
  ibuf := ⟨false, 0⟩
  outcome := none
  draws := 0

/-- The machine after reset with the values of the table of R151 (D14, log entry 9). -/
def State.reset : State := State.resetWith Config.resetValues

end Sys2Proof.Machine
end

