-- ==== Sys2Proof/Machine/Ops.lean ====
section
/-! DEFINITION. The named operations over registers, memory and the buffers, the two ways a step ends
(`Continue` and a halt), and reset. -/

namespace Sys2Proof.Machine

/-! ### Memory as a list in canonical form -/

/-- What the list records at an address: the word written there, or nothing. -/
def Memory.cell : Memory → Nat → Option Word
  | [], _ => none
  | (b, w) :: rest, a => if a = b then some w else Memory.cell rest a

/-- Recording a word at an address, addresses kept rising. -/
def Memory.put : Memory → Nat → Word → Memory
  | [], a, v => [(a, v)]
  | (b, w) :: rest, a, v =>
    if a < b then (a, v) :: (b, w) :: rest
    else if a = b then (a, v) :: rest
    else (b, w) :: Memory.put rest a v

/-- Addresses rise strictly, begin at `lo` or later, and lie in the 512-word space (R25). -/
def Memory.risesFrom : Nat → Memory → Bool
  | _, [] => true
  | lo, (a, _) :: rest => decide (lo ≤ a) && decide (a < 512) && Memory.risesFrom (a + 1) rest

/-- The canonical form: two lists that record the same words are the same list (log entry 2). -/
def Memory.wf (m : Memory) : Bool := Memory.risesFrom 0 m

/-! ### Reading and writing the machine -/

/-- `reg[a]` (R7, R48). -/
def State.reg (s : State) : Reg → Word
  | .acc => s.acc
  | .ix => s.ix

/-- `reg[a] <- v` (R7, R48). -/
def State.setReg (s : State) (r : Reg) (v : Word) : State :=
  match r with
  | .acc => { s with acc := v }
  | .ix => { s with ix := v }

/-- Writing all four flags (R89). -/
def State.setFlags (s : State) (f : Flags) : State := { s with flags := f }

/-- Writing `C` only (R81, R82). -/
def State.setCarry (s : State) (c : Bool) : State := { s with flags := { s.flags with c := c } }

/-- `MemRead(addr, 1)`: the word at a 9-bit address; it cannot fail (R29). A word nothing has written
reads as the free value of power-on (R154; log entry 2). DESIGN CHOICE: the free value depends on the
address alone, so at an address neither has written any two states read the same word, two machines or
two power-ons of one included; the spec leaves that open (R23, D17). -/
def State.readWord (s : State) (a : Addr) : Word :=
  (s.mem.cell a.toNat).getD (Config.initialWord a.toNat)

/-- `MemWrite(addr, 1, v)`; it cannot fail (R30). -/
def State.writeWord (s : State) (a : Addr) (v : Word) : State :=
  { s with mem := s.mem.put a.toNat v }

/-- `{0, w}`: the program region (R7, R26). -/
def programAddr (w : Word) : Addr := 0#1 ++ w

/-- `{1, w}`: the data region (R7, R26). -/
def dataAddr (w : Word) : Addr := 1#1 ++ w

/-! ### The I/O port -/

/-- The port transfer of `OUT`: `acc` is latched and the flag set, whatever the flag was (R84). -/
def State.latchOutput (s : State) : State := { s with obuf := ⟨true, s.acc⟩ }

/-- The port transfer of `IN`: the pending word, whose flag is cleared; with no word pending a drawn
word, and the flag stays 0 (R85; log entry 3). -/
def State.receiveInput (s : State) : State :=
  if s.ibuf.flag then
    { s with acc := s.ibuf.data, ibuf := { s.ibuf with flag := false } }
  else
    { s with acc := Config.drawnWord s.draws, draws := s.draws + 1 }

/-! ### How a step ends -/

/-- Outcome `Continue`, not taken: `pc` past the instruction's `len` words, modulo 256 (R9, R77). -/
def State.finish (s : State) (len : Nat) : State :=
  { s with pc := s.pc + BitVec.ofNat 8 len, outcome := some .continues }

/-- Outcome `Continue`, taken: `pc` at the target (R77). -/
def State.jumpTo (s : State) (target : Word) : State :=
  { s with pc := target, outcome := some .continues }

/-- TAKING A HALT, the one exception-like event of the machine (R134): the outcome is `Halt(reason)`,
`pc` is `(pc0 + 1) mod 256`, nothing else changes (R139, R140). Nothing is saved and no handler runs;
there is no return from it (R143). -/
def State.takeHalt (s : State) (r : HaltReason) : State :=
  { s with pc := s.pc + 1, outcome := some (.halt r) }

/-- The 2-bit reason code of the outcome port (R135, D23). -/
def HaltReason.code : HaltReason → BitVec 2
  | .haltInstruction => 0
  | .decodeFailure => 1
  | .unsupportedSubMode => 2
  | .operandFetchFailure => 3

/-! ### Reset -/

/-- Reset applied in any state (R151, R152): registers, flags and `obuf.flag` take the reset values;
`obuf.data`, `ibuf` and memory are not written; reset is no step and returns no outcome. -/
def applyReset (rv : ResetValues) (s : State) : State :=
  { s with
    pc := rv.pc
    acc := rv.acc
    ix := rv.ix
    flags := ⟨rv.c, rv.v, rv.n, rv.z⟩
    obuf := { s.obuf with flag := rv.obufFlag }
    outcome := none }

end Sys2Proof.Machine
end

