-- ==== Sys2Proof/Machine/Flags.lean ====
section
/-! DEFINITION. The ALU and the condition-flag evaluator: the adder, subtraction through it, the logic
results, the shift and the rotate, each with the flags it leaves (R89 to R104). -/

namespace Sys2Proof.Machine

/-- What the adder yields: the 8-bit result, the carry out (or borrow) and signed overflow (R90, R93). -/
structure CoreResult where
  res : Word
  carry : Bool
  overflow : Bool
deriving DecidableEq, Repr

/-- What an ALU instruction computes: its result and the four flags after it. -/
structure AluResult where
  res : Word
  flags : Flags
deriving DecidableEq, Repr

/-- `AddCore(A, X, cin)` on unbounded integers (R90). -/
def addCore (a x : Word) (cin : Bool) : CoreResult :=
  let t := a.toNat + x.toNat + cin.toNat
  let res := BitVec.ofNat 8 t
  { res
    carry := decide (t > 255)
    overflow := (a.getLsbD 7 == x.getLsbD 7) && (res.getLsbD 7 != a.getLsbD 7) }

/-- `SubCore(A, B, bin) = AddCore(A, ~B, 1 - bin)`, the borrow being the complement of the carry out
(R93, D9). -/
def subCore (a b : Word) (bin : Bool) : CoreResult :=
  let r := addCore a (~~~b) (!bin)
  { r with carry := !r.carry }

/-- The flags with `Z` and `N` from a result (R89). -/
def flagsOf (c v : Bool) (res : Word) : Flags :=
  { c, v, n := res.getLsbD 7, z := res == 0 }

/-- Addition with its flags (R91, R92). -/
def addAlu (a b : Word) (cin : Bool) : AluResult :=
  let r := addCore a b cin
  ⟨r.res, flagsOf r.carry r.overflow r.res⟩

/-- Subtraction with its flags (R94 to R96). -/
def subAlu (a b : Word) (bin : Bool) : AluResult :=
  let r := subCore a b bin
  ⟨r.res, flagsOf r.carry r.overflow r.res⟩

/-- A logic result: `C` and `V` cleared, `Z` and `N` from the result (R98). -/
def logicAlu (res : Word) : AluResult := ⟨res, flagsOf false false res⟩

/-- Arithmetic right shift by one: bit 7 kept, `C` gets bit 0, `V` unchanged (R103, D10). -/
def sraAlu (old : Flags) (a : Word) : AluResult :=
  let res := (a &&& 0x80) ||| (a >>> 1)
  ⟨res, flagsOf (a.getLsbD 0) old.v res⟩

/-- Rotate left by one through the carry: the old `C` enters bit 0, `C` gets bit 7, `V` unchanged (R104,
D10). -/
def rllAlu (old : Flags) (a : Word) : AluResult :=
  let res := (a <<< 1) ||| (BitVec.ofBool old.c).setWidth 8
  ⟨res, flagsOf (a.getLsbD 7) old.v res⟩

/-- Write-back of an ALU instruction: flags, the A register, `pc` past `len` words (R75, R76). -/
def State.finishAlu (s : State) (r : Reg) (len : Nat) (x : AluResult) : State :=
  ((s.setFlags x.flags).setReg r x.res).finish len

end Sys2Proof.Machine
end

