-- ==== Sys2Proof/WellFormed.lean ====
section
/-! DEFINITION. Which instructions have an encoding. Every operand's width is in its type; the one
relation left to check is that of a shift or rotate to its register (R44). -/

namespace Sys2Proof

/-- Whether a family may name register `r`: with the family in bit 3 that bit is the A-field too, so
the family fixes the register; with the family in bit 2 both registers can be named (R44, note D5). -/
def shrotRegisterOk (p : EncodingParams) (f : Family) (r : Reg) : Bool :=
  match p.familyBit with
  | .bit3 => r == p.regOf (p.famBit f)
  | .bit2 => true

/-- The instruction has an encoding under the numbering `p` (R44, R57: with the default numbering a
shift works on `acc` and a rotate on `ix`; `SRA IX` and `RLL ACC` have none). -/
def Instr.wf (p : EncodingParams) : Instr → Bool
  | .sra r => shrotRegisterOk p .shift r
  | .sla r => shrotRegisterOk p .shift r
  | .srl r => shrotRegisterOk p .shift r
  | .sll r => shrotRegisterOk p .shift r
  | .rra r => shrotRegisterOk p .rotate r
  | .rla r => shrotRegisterOk p .rotate r
  | .rrl r => shrotRegisterOk p .rotate r
  | .rll r => shrotRegisterOk p .rotate r
  | .nop => true
  | .jal _ => true
  | .jr => true
  | .hlt => true
  | .out => true
  | .inp => true
  | .rcf => true
  | .scf => true
  | .ba _ => true
  | .bnz _ => true
  | .bzp _ => true
  | .bp _ => true
  | .bni _ => true
  | .bnc _ => true
  | .bge _ => true
  | .bgt _ => true
  | .bvf _ => true
  | .bz _ => true
  | .bn _ => true
  | .bzn _ => true
  | .bno _ => true
  | .bc _ => true
  | .blt _ => true
  | .ble _ => true
  | .ld _ _ => true
  | .st _ _ => true
  | .sbc _ _ => true
  | .adc _ _ => true
  | .sub _ _ => true
  | .add _ _ => true
  | .eor _ _ => true
  | .or _ _ => true
  | .and _ _ => true
  | .cmp _ _ => true

end Sys2Proof
end

