-- ==== Sys2Proof/Decode.lean ====
section
/-! DEFINITION. The decoder, total on any words, and after it the encoder. Both read the one table of
numbers `defaultEncoding` (R48 to R52, log entry 6) through the parameter `p`, so that a claim can name
the numbering it rests on (R6). -/

namespace Sys2Proof

/-- The spec's numbers: `OPCODE_MAP` R49, `A_POLARITY` R48, `B_MAP` R50, `CC_MAP` R51,
`SHROT_FAMILY_BIT` R44, family polarity and `SM_MAP` R52. -/
def defaultEncoding : EncodingParams where
  fixedByte
    | .nop => 0x00
    | .jal => 0x0A
    | .jr => 0x0B
    | .hlt => 0x0F
    | .out => 0x10
    | .inp => 0x1F
    | .rcf => 0x20
    | .scf => 0x2F
  branchPrefix := 0x3
  shrotPrefix := 0x4
  twoOperandPrefix
    | .ld => 0x6
    | .st => 0x7
    | .sbc => 0x8
    | .adc => 0x9
    | .sub => 0xA
    | .add => 0xB
    | .eor => 0xC
    | .or => 0xD
    | .and => 0xE
    | .cmp => 0xF
  aSelectsIx := true
  modeCode
    | .acc => 0b000
    | .ix => 0b001
    | .imm => 0b010
    | .absP => 0b100
    | .absD => 0b101
    | .idxP => 0b110
    | .idxD => 0b111
  condCode
    | .always => 0x0
    | .notZero => 0x1
    | .zeroOrPositive => 0x2
    | .positive => 0x3
    | .noInput => 0x4
    | .noCarry => 0x5
    | .signedGreaterOrEqual => 0x6
    | .signedGreater => 0x7
    | .onOverflow => 0x8
    | .zero => 0x9
    | .negative => 0xA
    | .zeroOrNegative => 0xB
    | .noOutput => 0xC
    | .carry => 0xD
    | .signedLess => 0xE
    | .signedLessOrEqual => 0xF
  familyBit := .bit3
  rotateBit := true
  subModeCode
    | .rightArithmetic => 0b00
    | .leftArithmetic => 0b01
    | .rightLogical => 0b10
    | .leftLogical => 0b11

/-! ### The fields of the first word (R42 to R44, R62) -/

/-- The opcode prefix, bits 7..4. -/
def prefixOf (w1 : Word) : BitVec 4 := w1.extractLsb' 4 4

/-- The A-field, bit 3. -/
def aField (w1 : Word) : Bool := w1.getLsbD 3

/-- The B-field, bits 2..0. -/
def bField (w1 : Word) : BitVec 3 := w1.extractLsb' 0 3

/-- The condition code, bits 3..0. -/
def ccField (w1 : Word) : BitVec 4 := w1.extractLsb' 0 4

/-- The sub-mode, bits 1..0. -/
def smField (w1 : Word) : BitVec 2 := w1.extractLsb' 0 2

/-- The family bit, wherever `SHROT_FAMILY_BIT` puts it (R44, note D5). -/
def famField (p : EncodingParams) (w1 : Word) : Bool :=
  match p.familyBit with
  | .bit3 => w1.getLsbD 3
  | .bit2 => w1.getLsbD 2

/-! ### The tables, searched from the number to the name -/

/-- The eight fixed instructions (R45). -/
def FixedOp.all : List FixedOp := [.nop, .jal, .jr, .hlt, .out, .inp, .rcf, .scf]

/-- The ten two-operand instructions (R42). -/
def TwoOperandOp.all : List TwoOperandOp := [.ld, .st, .sbc, .adc, .sub, .add, .eor, .or, .and, .cmp]

/-- The seven addressing modes (R50). -/
def Mode.all : List Mode := [.acc, .ix, .imm, .absP, .absD, .idxP, .idxD]

/-- The sixteen conditions (R51). -/
def Cond.all : List Cond :=
  [.always, .notZero, .zeroOrPositive, .positive, .noInput, .noCarry, .signedGreaterOrEqual,
   .signedGreater, .onOverflow, .zero, .negative, .zeroOrNegative, .noOutput, .carry, .signedLess,
   .signedLessOrEqual]

/-- The four sub-modes (R52). -/
def SubMode.all : List SubMode := [.rightArithmetic, .leftArithmetic, .rightLogical, .leftLogical]

/-- Whether a prefix is one of those the fixed bytes use, which "alias multiple instructions" and are
matched on the full byte (R45, R47 step 1). -/
def isFixedPrefix (p : EncodingParams) (pre : BitVec 4) : Bool :=
  FixedOp.all.any fun o => prefixOf (p.fixedByte o) == pre

/-! ### From the classified fields to the instruction -/

/-- What the decoder says of a first word; it reads nothing else (R47, R63). -/
inductive Verdict where
  /-- Unknown instruction: the step ends with `Halt(DecodeFailure)` (R54, R136). -/
  | unknown
  /-- A one-word instruction. -/
  | oneWord (i : Instr)
  /-- A two-word instruction, complete once its second word is supplied; every value of that word is
  legal (R56). -/
  | twoWord (complete : Word → Instr)

/-- The instruction of a fixed byte; `JAL` has a second word, the other seven are one word (R45). -/
def fixedVerdict : FixedOp → Verdict
  | .nop => .oneWord .nop
  | .jal => .twoWord .jal
  | .jr => .oneWord .jr
  | .hlt => .oneWord .hlt
  | .out => .oneWord .out
  | .inp => .oneWord .inp
  | .rcf => .oneWord .rcf
  | .scf => .oneWord .scf

/-- The branch of a condition (R51). -/
def branchInstr : Cond → Word → Instr
  | .always => .ba
  | .notZero => .bnz
  | .zeroOrPositive => .bzp
  | .positive => .bp
  | .noInput => .bni
  | .noCarry => .bnc
  | .signedGreaterOrEqual => .bge
  | .signedGreater => .bgt
  | .onOverflow => .bvf
  | .zero => .bz
  | .negative => .bn
  | .zeroOrNegative => .bzn
  | .noOutput => .bno
  | .carry => .bc
  | .signedLess => .blt
  | .signedLessOrEqual => .ble

/-- The instruction of a family and a sub-mode (R52). -/
def shrotInstr : Family → SubMode → Reg → Instr
  | .shift, .rightArithmetic => .sra
  | .shift, .leftArithmetic => .sla
  | .shift, .rightLogical => .srl
  | .shift, .leftLogical => .sll
  | .rotate, .rightArithmetic => .rra
  | .rotate, .leftArithmetic => .rla
  | .rotate, .rightLogical => .rrl
  | .rotate, .leftLogical => .rll

/-- Whether a second word follows the mode: all but the register modes (R46). -/
def Mode.takesWord : Mode → Bool
  | .acc => false
  | .ix => false
  | .imm => true
  | .absP => true
  | .absD => true
  | .idxP => true
  | .idxD => true

/-- The B operand of a mode and its second word; a register mode has none and ignores it (R46, R50). -/
def Mode.operand : Mode → Word → Operand
  | .acc, _ => .acc
  | .ix, _ => .ix
  | .imm, d => .imm d
  | .absP, d => .absP d
  | .absD, d => .absD d
  | .idxP, d => .idxP d
  | .idxD, d => .idxD d

/-- A two-operand instruction other than `ST`: one or two words as the mode says (R53). -/
def operandVerdict (make : Operand → Instr) (m : Mode) : Verdict :=
  if m.takesWord then .twoWord fun d => make (m.operand d) else .oneWord (make (m.operand 0))

/-- `ST`: two words in the four memory modes; one word in the three that name no address, whose
second word is never consumed (R53, R88). -/
def storeVerdict (r : Reg) : Mode → Verdict
  | .acc => .oneWord (.st r .acc)
  | .ix => .oneWord (.st r .ix)
  | .imm => .oneWord (.st r .imm)
  | .absP => .twoWord fun d => .st r (.absP d)
  | .absD => .twoWord fun d => .st r (.absD d)
  | .idxP => .twoWord fun d => .st r (.idxP d)
  | .idxD => .twoWord fun d => .st r (.idxD d)

/-- The instruction of a two-operand prefix, a register and a mode (R42). -/
def twoOperandVerdict (r : Reg) (m : Mode) : TwoOperandOp → Verdict
  | .ld => operandVerdict (.ld r) m
  | .st => storeVerdict r m
  | .sbc => operandVerdict (.sbc r) m
  | .adc => operandVerdict (.adc r) m
  | .sub => operandVerdict (.sub r) m
  | .add => operandVerdict (.add r) m
  | .eor => operandVerdict (.eor r) m
  | .or => operandVerdict (.or r) m
  | .and => operandVerdict (.and r) m
  | .cmp => operandVerdict (.cmp r) m

/-! ### The decoder -/

/-- R47 step (1): under a fixed prefix all of `w1` is compared with the eight bytes. -/
def decodeFixed (p : EncodingParams) (w1 : Word) : Verdict :=
  match FixedOp.all.find? fun o => p.fixedByte o == w1 with
  | some o => fixedVerdict o
  | none => .unknown

/-- R47 step (2): under the branch prefix the low four bits are the condition. -/
def decodeBranch (p : EncodingParams) (w1 : Word) : Verdict :=
  match Cond.all.find? fun c => p.condCode c == ccField w1 with
  | some c => .twoWord (branchInstr c)
  | none => .unknown

/-- R47 step (3): under the shift/rotate prefix, family, sub-mode and register. -/
def decodeShrot (p : EncodingParams) (w1 : Word) : Verdict :=
  match SubMode.all.find? fun m => p.subModeCode m == smField w1 with
  | some m => .oneWord (shrotInstr (p.famOf (famField p w1)) m (p.regOf (aField w1)))
  | none => .unknown

/-- R47 step (4): a two-operand prefix with its register and mode; a B-field with no mapping makes the
instruction unknown. R47 step (5): any other prefix is unknown. -/
def decodeTwoOperand (p : EncodingParams) (w1 : Word) : Verdict :=
  match TwoOperandOp.all.find? fun o => p.twoOperandPrefix o == prefixOf w1,
      Mode.all.find? fun m => p.modeCode m == bField w1 with
  | some o, some m => twoOperandVerdict (p.regOf (aField w1)) m o
  | _, _ => .unknown

/-- The decoding procedure R47; it is total, every first word gets exactly one verdict. -/
def decodeFirst (p : EncodingParams) (w1 : Word) : Verdict :=
  if isFixedPrefix p (prefixOf w1) then decodeFixed p w1
  else if prefixOf w1 == p.branchPrefix then decodeBranch p w1
  else if prefixOf w1 == p.shrotPrefix then decodeShrot p w1
  else decodeTwoOperand p w1

/-- Why a list of words holds no instruction at its head. -/
inductive DecodeError where
  /-- There is no word at all. -/
  | noWord
  /-- The first word is an unknown instruction (R54): the machine's `DecodeFailure`. -/
  | unknownInstruction
  /-- A two-word instruction without its second word; memory always has one (R31). -/
  | secondWordMissing
deriving DecidableEq, Repr

/-- Decoding a list of words: the instruction at its head, and the words after it. -/
def decode (p : EncodingParams) : List Word → Except DecodeError (Instr × List Word)
  | [] => .error .noWord
  | w1 :: rest =>
    match decodeFirst p w1 with
    | .unknown => .error .unknownInstruction
    | .oneWord i => .ok (i, rest)
    | .twoWord f =>
      match rest with
      | w2 :: rest' => .ok (f w2, rest')
      | [] => .error .secondWordMissing

/-- The instruction the decoder reads from a row's bits, the first word in bits 7..0 and the second in
bits 15..8, every bit above `nbits` zero (the numbering of spec/opcode_table.json; R32: the first word
lies at the lower address). -/
def decodeTableWord (nbits w : Nat) : Option Instr :=
  match decode defaultEncoding [BitVec.ofNat 8 (w % 2 ^ nbits), BitVec.ofNat 8 (w % 2 ^ nbits / 256)] with
  | .ok (i, _) => some i
  | .error _ => none

/-! ### Lengths (R53) -/

/-- The words an instruction with this B operand occupies (R46, R53). -/
def Operand.length : Operand → Nat
  | .acc => 1
  | .ix => 1
  | .imm _ => 2
  | .absP _ => 2
  | .absD _ => 2
  | .idxP _ => 2
  | .idxD _ => 2

/-- The words `ST` occupies: one where it halts before a second word is consumed (R53, R88). -/
def Dest.length : Dest → Nat
  | .acc => 1
  | .ix => 1
  | .imm => 1
  | .absP _ => 2
  | .absD _ => 2
  | .idxP _ => 2
  | .idxD _ => 2

/-- The length of the instruction whose first word is `w1`, "with the numbers of rules R49 and R50"
(R53): a first word that halts with an error counts one. -/
def lengthOfWord (w1 : Word) : Nat :=
  if prefixOf w1 = 0x3 ∨ w1 = 0x0A ∨
      (0x6 ≤ (prefixOf w1).toNat ∧ (bField w1).toNat ∈ [2, 4, 5, 6, 7] ∧
        ¬ (prefixOf w1 = 0x7 ∧ bField w1 = 2)) then 2
  else 1

/-! ### The encoder -/

/-- The B-field of an operand (R50). -/
def Operand.mode : Operand → Mode
  | .acc => .acc
  | .ix => .ix
  | .imm _ => .imm
  | .absP _ => .absP
  | .absD _ => .absD
  | .idxP _ => .idxP
  | .idxD _ => .idxD

/-- The second word of an operand, if it has one (R46). -/
def Operand.word? : Operand → Option Word
  | .acc => none
  | .ix => none
  | .imm d => some d
  | .absP d => some d
  | .absD d => some d
  | .idxP d => some d
  | .idxD d => some d

/-- The B-field of a destination of `ST` (R50). -/
def Dest.mode : Dest → Mode
  | .acc => .acc
  | .ix => .ix
  | .imm => .imm
  | .absP _ => .absP
  | .absD _ => .absD
  | .idxP _ => .idxP
  | .idxD _ => .idxD

/-- The second word of a destination, if it has one that is consumed (R53). -/
def Dest.word? : Dest → Option Word
  | .acc => none
  | .ix => none
  | .imm => none
  | .absP d => some d
  | .absD d => some d
  | .idxP d => some d
  | .idxD d => some d

/-- Format AB: prefix, A-field, B-field (R42). -/
def twoOperandWord (p : EncodingParams) (o : TwoOperandOp) (r : Reg) (m : Mode) : Word :=
  p.twoOperandPrefix o ++ BitVec.ofBool (p.regBit r) ++ p.modeCode m

/-- Format BR: prefix, condition code (R43). -/
def branchWord (p : EncodingParams) (c : Cond) : Word :=
  p.branchPrefix ++ p.condCode c

/-- Format SR: prefix, then family and register as `SHROT_FAMILY_BIT` lays them out, then the sub-mode;
the bit that is not read is written 0 (R44, note D5, log entry 10). -/
def shrotWord (p : EncodingParams) (f : Family) (m : SubMode) (r : Reg) : Word :=
  match p.familyBit with
  | .bit3 => p.shrotPrefix ++ BitVec.ofBool (p.famBit f) ++ 0#1 ++ p.subModeCode m
  | .bit2 => p.shrotPrefix ++ BitVec.ofBool (p.regBit r) ++ BitVec.ofBool (p.famBit f) ++ p.subModeCode m

/-- The first word of an instruction (R42 to R45, R49 to R52). -/
def encodeFirst (p : EncodingParams) : Instr → Word
  | .nop => p.fixedByte .nop
  | .jal _ => p.fixedByte .jal
  | .jr => p.fixedByte .jr
  | .hlt => p.fixedByte .hlt
  | .out => p.fixedByte .out
  | .inp => p.fixedByte .inp
  | .rcf => p.fixedByte .rcf
  | .scf => p.fixedByte .scf
  | .ba _ => branchWord p .always
  | .bnz _ => branchWord p .notZero
  | .bzp _ => branchWord p .zeroOrPositive
  | .bp _ => branchWord p .positive
  | .bni _ => branchWord p .noInput
  | .bnc _ => branchWord p .noCarry
  | .bge _ => branchWord p .signedGreaterOrEqual
  | .bgt _ => branchWord p .signedGreater
  | .bvf _ => branchWord p .onOverflow
  | .bz _ => branchWord p .zero
  | .bn _ => branchWord p .negative
  | .bzn _ => branchWord p .zeroOrNegative
  | .bno _ => branchWord p .noOutput
  | .bc _ => branchWord p .carry
  | .blt _ => branchWord p .signedLess
  | .ble _ => branchWord p .signedLessOrEqual
  | .sra r => shrotWord p .shift .rightArithmetic r
  | .sla r => shrotWord p .shift .leftArithmetic r
  | .srl r => shrotWord p .shift .rightLogical r
  | .sll r => shrotWord p .shift .leftLogical r
  | .rra r => shrotWord p .rotate .rightArithmetic r
  | .rla r => shrotWord p .rotate .leftArithmetic r
  | .rrl r => shrotWord p .rotate .rightLogical r
  | .rll r => shrotWord p .rotate .leftLogical r
  | .ld r b => twoOperandWord p .ld r b.mode
  | .st r b => twoOperandWord p .st r b.mode
  | .sbc r b => twoOperandWord p .sbc r b.mode
  | .adc r b => twoOperandWord p .adc r b.mode
  | .sub r b => twoOperandWord p .sub r b.mode
  | .add r b => twoOperandWord p .add r b.mode
  | .eor r b => twoOperandWord p .eor r b.mode
  | .or r b => twoOperandWord p .or r b.mode
  | .and r b => twoOperandWord p .and r b.mode
  | .cmp r b => twoOperandWord p .cmp r b.mode

/-- The second word of an instruction, if it has one (R46, R53). -/
def encodeSecond : Instr → Option Word
  | .nop => none
  | .jal d => some d
  | .jr => none
  | .hlt => none
  | .out => none
  | .inp => none
  | .rcf => none
  | .scf => none
  | .ba d => some d
  | .bnz d => some d
  | .bzp d => some d
  | .bp d => some d
  | .bni d => some d
  | .bnc d => some d
  | .bge d => some d
  | .bgt d => some d
  | .bvf d => some d
  | .bz d => some d
  | .bn d => some d
  | .bzn d => some d
  | .bno d => some d
  | .bc d => some d
  | .blt d => some d
  | .ble d => some d
  | .sra _ => none
  | .sla _ => none
  | .srl _ => none
  | .sll _ => none
  | .rra _ => none
  | .rla _ => none
  | .rrl _ => none
  | .rll _ => none
  | .ld _ b => b.word?
  | .st _ b => b.word?
  | .sbc _ b => b.word?
  | .adc _ b => b.word?
  | .sub _ b => b.word?
  | .add _ b => b.word?
  | .eor _ b => b.word?
  | .or _ b => b.word?
  | .and _ b => b.word?
  | .cmp _ b => b.word?

/-- The words of an instruction, the first at the lower address (R32, R41). -/
def encode (p : EncodingParams) (i : Instr) : List Word :=
  match encodeSecond i with
  | none => [encodeFirst p i]
  | some w2 => [encodeFirst p i, w2]

end Sys2Proof
end

