-- ==== Sys2Proof/Machine/Operands.lean ====
section
/-! DEFINITION. Operand resolution: the seven addressing modes of the B operand, the destinations of
`ST`, and the sixteen branch conditions. Every value is read from the state as it was when
the step began (R61). -/

namespace Sys2Proof.Machine

/-- The low byte of an index-relative address: `(ix + d) mod 256`; it wraps inside the region (R26,
R71). -/
def State.indexed (s : State) (d : Word) : Word := s.ix + d

/-- The effective address of a B operand; the register modes and the immediate have none (R66 to R72). -/
def State.operandAddr (s : State) (b : Operand) : Option Addr :=
  match b with
  | .acc => none
  | .ix => none
  | .imm _ => none
  | .absP d => some (programAddr d)
  | .absD d => some (dataAddr d)
  | .idxP d => some (programAddr (s.indexed d))
  | .idxD d => some (dataAddr (s.indexed d))

/-- `opB`: the value of a B operand (R66 to R72). -/
def State.operandValue (s : State) (b : Operand) : Word :=
  match b with
  | .acc => s.acc
  | .ix => s.ix
  | .imm d => d
  | .absP d => s.readWord (programAddr d)
  | .absD d => s.readWord (dataAddr d)
  | .idxP d => s.readWord (programAddr (s.indexed d))
  | .idxD d => s.readWord (dataAddr (s.indexed d))

/-- The effective address `ST` stores to, if the mode yields one (R87, R88). -/
def State.destAddr (s : State) (b : Dest) : Option Addr :=
  match b with
  | .acc => none
  | .ix => none
  | .imm => none
  | .absP d => some (programAddr d)
  | .absD d => some (dataAddr d)
  | .idxP d => some (programAddr (s.indexed d))
  | .idxD d => some (dataAddr (s.indexed d))

/-- The parameter `IO_COND_WIRED`: whether the I/O collaborator is wired to the two I/O conditions (R6,
D13). The default: not wired (log entry 7). -/
def ioCondWired : Bool := false

/-- The predicate of a condition on the flags before the step (R114 to R129). The two I/O conditions
are always false unless `wired`; then they look at the buffer flags (R118, R126). -/
def State.condHolds (s : State) (wired : Bool) : Cond → Bool
  | .always => true
  | .notZero => !s.flags.z
  | .zeroOrPositive => !s.flags.n
  | .positive => !s.flags.n && !s.flags.z
  | .noInput => wired && !s.ibuf.flag
  | .noCarry => !s.flags.c
  | .signedGreaterOrEqual => !(s.flags.v ^^ s.flags.n)
  | .signedGreater => !(s.flags.v ^^ s.flags.n) && !s.flags.z
  | .onOverflow => s.flags.v
  | .zero => s.flags.z
  | .negative => s.flags.n
  | .zeroOrNegative => s.flags.n || s.flags.z
  | .noOutput => wired && s.obuf.flag
  | .carry => s.flags.c
  | .signedLess => s.flags.v ^^ s.flags.n
  | .signedLessOrEqual => (s.flags.v ^^ s.flags.n) || s.flags.z

/-- The common part of the sixteen branches: two words, taken iff the condition holds (R73, R113), with
the I/O conditions wired or not. -/
def State.branchWith (s : State) (wired : Bool) (c : Cond) (d : Word) : State :=
  if s.condHolds wired c then s.jumpTo d else s.finish 2

/-- A branch with the parameter at its default. -/
abbrev State.branch (s : State) (c : Cond) (d : Word) : State := s.branchWith ioCondWired c d

end Sys2Proof.Machine
end

