-- ==== Sys2Proof/Machine/Arithmetic.lean ====
section
/-! DEFINITION. ADD, ADC, SUB, SBC, CMP (spec/44_arithmetic.md). -/

namespace Sys2Proof.Machine

/-- `ADD r, b`: `C` before the step is ignored (R91). -/
def execAdd (r : Reg) (b : Operand) (s : State) : Host.Outcome State Fault Refusal :=
  .next (s.finishAlu r b.length (addAlu (s.reg r) (s.operandValue b) false))

/-- `ADC r, b`: with carry in (R92). -/
def execAdc (r : Reg) (b : Operand) (s : State) : Host.Outcome State Fault Refusal :=
  .next (s.finishAlu r b.length (addAlu (s.reg r) (s.operandValue b) s.flags.c))

/-- `SUB r, b`: `C` after is the borrow (R94). -/
def execSub (r : Reg) (b : Operand) (s : State) : Host.Outcome State Fault Refusal :=
  .next (s.finishAlu r b.length (subAlu (s.reg r) (s.operandValue b) false))

/-- `SBC r, b`: with borrow in (R95). -/
def execSbc (r : Reg) (b : Operand) (s : State) : Host.Outcome State Fault Refusal :=
  .next (s.finishAlu r b.length (subAlu (s.reg r) (s.operandValue b) s.flags.c))

/-- `CMP r, b`: the flags of `SUB`, the result discarded (R96). -/
def execCmp (r : Reg) (b : Operand) (s : State) : Host.Outcome State Fault Refusal :=
  .next ((s.setFlags (subAlu (s.reg r) (s.operandValue b) false).flags).finish b.length)

end Sys2Proof.Machine
end

