-- ==== Sys2Proof/Machine/Branch.lean ====
section
/-! DEFINITION. The sixteen conditional branches, JAL and JR (spec/47_branch_jump.md). -/

namespace Sys2Proof.Machine

/-- `BA d`: always taken (R113, R114). -/
def execBa (d : Word) (s : State) : Host.Outcome State Fault Refusal := .next (s.branch .always d)

/-- `BNZ d`: taken iff `Z == 0` (R113, R115). -/
def execBnz (d : Word) (s : State) : Host.Outcome State Fault Refusal := .next (s.branch .notZero d)

/-- `BZP d`: taken iff `N == 0` (R113, R116). -/
def execBzp (d : Word) (s : State) : Host.Outcome State Fault Refusal := .next (s.branch .zeroOrPositive d)

/-- `BP d`: taken iff `N == 0` and `Z == 0` (R113, R117). -/
def execBp (d : Word) (s : State) : Host.Outcome State Fault Refusal := .next (s.branch .positive d)

/-- `BNI d`: never taken while the I/O conditions are not wired (R113, R118). -/
def execBni (d : Word) (s : State) : Host.Outcome State Fault Refusal := .next (s.branch .noInput d)

/-- `BNC d`: taken iff `C == 0` (R113, R119). -/
def execBnc (d : Word) (s : State) : Host.Outcome State Fault Refusal := .next (s.branch .noCarry d)

/-- `BGE d`: taken iff `(V ^ N) == 0` (R113, R120). -/
def execBge (d : Word) (s : State) : Host.Outcome State Fault Refusal := .next (s.branch .signedGreaterOrEqual d)

/-- `BGT d`: taken iff `(V ^ N) == 0` and `Z == 0` (R113, R121). -/
def execBgt (d : Word) (s : State) : Host.Outcome State Fault Refusal := .next (s.branch .signedGreater d)

/-- `BVF d`: taken iff `V == 1` (R113, R122). -/
def execBvf (d : Word) (s : State) : Host.Outcome State Fault Refusal := .next (s.branch .onOverflow d)

/-- `BZ d`: taken iff `Z == 1` (R113, R123). -/
def execBz (d : Word) (s : State) : Host.Outcome State Fault Refusal := .next (s.branch .zero d)

/-- `BN d`: taken iff `N == 1` (R113, R124). -/
def execBn (d : Word) (s : State) : Host.Outcome State Fault Refusal := .next (s.branch .negative d)

/-- `BZN d`: taken iff `N == 1` or `Z == 1` (R113, R125). -/
def execBzn (d : Word) (s : State) : Host.Outcome State Fault Refusal := .next (s.branch .zeroOrNegative d)

/-- `BNO d`: never taken while the I/O conditions are not wired (R113, R126). -/
def execBno (d : Word) (s : State) : Host.Outcome State Fault Refusal := .next (s.branch .noOutput d)

/-- `BC d`: taken iff `C == 1` (R113, R127). -/
def execBc (d : Word) (s : State) : Host.Outcome State Fault Refusal := .next (s.branch .carry d)

/-- `BLT d`: taken iff `(V ^ N) == 1` (R113, R128). -/
def execBlt (d : Word) (s : State) : Host.Outcome State Fault Refusal := .next (s.branch .signedLess d)

/-- `BLE d`: taken iff `(V ^ N) == 1` or `Z == 1` (R113, R129). -/
def execBle (d : Word) (s : State) : Host.Outcome State Fault Refusal := .next (s.branch .signedLessOrEqual d)

/-- `JAL d`: the return address `(pc0 + 2) mod 256` to `acc`, whatever bit 3 of the word says, then
`pc` to the target (R130). -/
def execJal (d : Word) (s : State) : Host.Outcome State Fault Refusal :=
  .next ((s.setReg .acc (s.pc + 2)).jumpTo d)

/-- `JR`: `pc` to the accumulator's value, never the index register's (R131). -/
def execJr (s : State) : Host.Outcome State Fault Refusal := .next (s.jumpTo s.acc)

end Sys2Proof.Machine
end

