-- ==== Sys2Proof/Machine/Control.lean ====
section
/-! DEFINITION. NOP, HLT, RCF, SCF (spec/41_control_flag.md). A meaning takes the state at the start of
the step, `pc` at the instruction's first word, and answers the state after it. -/

namespace Sys2Proof.Machine

/-- `NOP`: only `pc` moves (R79). -/
def execNop (s : State) : Host.Outcome State Fault Refusal := .next (s.finish 1)

/-- `HLT`: the outcome is `Halt(HaltInstruction)`, the normal halt (R80, R140; log entry 1). -/
def execHlt (s : State) : Host.Outcome State Fault Refusal := .next (s.takeHalt .haltInstruction)

/-- `RCF`: `C <- 0`, the other flags unchanged (R81). -/
def execRcf (s : State) : Host.Outcome State Fault Refusal := .next ((s.setCarry false).finish 1)

/-- `SCF`: `C <- 1`, the other flags unchanged (R82). -/
def execScf (s : State) : Host.Outcome State Fault Refusal := .next ((s.setCarry true).finish 1)

end Sys2Proof.Machine
end

