-- ==== Sys2Proof/Machine/Io.lean ====
section
/-! DEFINITION. OUT and IN (spec/42_io.md). -/

namespace Sys2Proof.Machine

/-- `OUT`: `acc` to the output buffer, its flag set; never blocks (R84). -/
def execOut (s : State) : Host.Outcome State Fault Refusal := .next (s.latchOutput.finish 1)

/-- `IN`: the pending word, or a drawn word where none is pending, to `acc`; never blocks (R85). -/
def execInp (s : State) : Host.Outcome State Fault Refusal := .next (s.receiveInput.finish 1)

end Sys2Proof.Machine
end

