-- ==== Sys2Proof/Machine/LoadStore.lean ====
section
/-! DEFINITION. LD and ST (spec/43_load_store.md). -/

namespace Sys2Proof.Machine

/-- `LD r, b`: the B operand to the register; no flag changes (R86). -/
def execLd (r : Reg) (b : Operand) (s : State) : Host.Outcome State Fault Refusal :=
  .next ((s.setReg r (s.operandValue b)).finish b.length)

/-- `ST r, b`: the register to the effective address, no flag and no register changes (R87); a mode
that yields no address halts with `OperandFetchFailure`, one word consumed (R88). -/
def execSt (r : Reg) (b : Dest) (s : State) : Host.Outcome State Fault Refusal :=
  match s.destAddr b with
  | some a => .next ((s.writeWord a (s.reg r)).finish b.length)
  | none => .next (s.takeHalt .operandFetchFailure)

end Sys2Proof.Machine
end

