-- ==== Sys2Proof/Machine/Logic.lean ====
section
/-! DEFINITION. AND, OR, EOR (spec/45_logic.md). -/

namespace Sys2Proof.Machine

/-- `AND r, b` (R98, R99). -/
def execAnd (r : Reg) (b : Operand) (s : State) : Host.Outcome State Fault Refusal :=
  .next (s.finishAlu r b.length (logicAlu (s.reg r &&& s.operandValue b)))

/-- `OR r, b` (R98, R100). -/
def execOr (r : Reg) (b : Operand) (s : State) : Host.Outcome State Fault Refusal :=
  .next (s.finishAlu r b.length (logicAlu (s.reg r ||| s.operandValue b)))

/-- `EOR r, b` (R98, R101). -/
def execEor (r : Reg) (b : Operand) (s : State) : Host.Outcome State Fault Refusal :=
  .next (s.finishAlu r b.length (logicAlu (s.reg r ^^^ s.operandValue b)))

end Sys2Proof.Machine
end

