-- ==== Sys2Proof/Machine/ShiftRotate.lean ====
section
/-! DEFINITION. SRA and RLL, which execute, and the six shift/rotate instructions that are decoded but
not implemented: each halts with `UnsupportedSubMode` and has no other semantics (R105 to R111,
spec/46_shift_rotate.md). -/

namespace Sys2Proof.Machine

/-- `SRA r`: arithmetic right shift by one (R103). -/
def execSra (r : Reg) (s : State) : Host.Outcome State Fault Refusal :=
  .next (s.finishAlu r 1 (sraAlu s.flags (s.reg r)))

/-- `RLL r`: rotate left by one through the carry (R104). -/
def execRll (r : Reg) (s : State) : Host.Outcome State Fault Refusal :=
  .next (s.finishAlu r 1 (rllAlu s.flags (s.reg r)))

/-- `SLA`: halts (R105, R111). -/
def execSla (_r : Reg) (s : State) : Host.Outcome State Fault Refusal :=
  .next (s.takeHalt .unsupportedSubMode)

/-- `SRL`: halts (R106, R111). -/
def execSrl (_r : Reg) (s : State) : Host.Outcome State Fault Refusal :=
  .next (s.takeHalt .unsupportedSubMode)

/-- `SLL`: halts (R107, R111). -/
def execSll (_r : Reg) (s : State) : Host.Outcome State Fault Refusal :=
  .next (s.takeHalt .unsupportedSubMode)

/-- `RRA`: halts (R108, R111). -/
def execRra (_r : Reg) (s : State) : Host.Outcome State Fault Refusal :=
  .next (s.takeHalt .unsupportedSubMode)

/-- `RLA`: halts (R109, R111). -/
def execRla (_r : Reg) (s : State) : Host.Outcome State Fault Refusal :=
  .next (s.takeHalt .unsupportedSubMode)

/-- `RRL`: halts (R110, R111). -/
def execRrl (_r : Reg) (s : State) : Host.Outcome State Fault Refusal :=
  .next (s.takeHalt .unsupportedSubMode)

end Sys2Proof.Machine
end

