-- ==== Sys2Proof/Machine/Dispatch.lean ====
section
/-! DEFINITION. One arm per constructor of `Instr`: the direct call of its meaning. -/

namespace Sys2Proof.Machine

def exec (i : Instr) (s : State) : Host.Outcome State Fault Refusal :=
  match i with
  | .nop => Sys2Proof.Machine.execNop s
  | .jal d => Sys2Proof.Machine.execJal d s
  | .jr => Sys2Proof.Machine.execJr s
  | .hlt => Sys2Proof.Machine.execHlt s
  | .out => Sys2Proof.Machine.execOut s
  | .inp => Sys2Proof.Machine.execInp s
  | .rcf => Sys2Proof.Machine.execRcf s
  | .scf => Sys2Proof.Machine.execScf s
  | .ba d => Sys2Proof.Machine.execBa d s
  | .bnz d => Sys2Proof.Machine.execBnz d s
  | .bzp d => Sys2Proof.Machine.execBzp d s
  | .bp d => Sys2Proof.Machine.execBp d s
  | .bni d => Sys2Proof.Machine.execBni d s
  | .bnc d => Sys2Proof.Machine.execBnc d s
  | .bge d => Sys2Proof.Machine.execBge d s
  | .bgt d => Sys2Proof.Machine.execBgt d s
  | .bvf d => Sys2Proof.Machine.execBvf d s
  | .bz d => Sys2Proof.Machine.execBz d s
  | .bn d => Sys2Proof.Machine.execBn d s
  | .bzn d => Sys2Proof.Machine.execBzn d s
  | .bno d => Sys2Proof.Machine.execBno d s
  | .bc d => Sys2Proof.Machine.execBc d s
  | .blt d => Sys2Proof.Machine.execBlt d s
  | .ble d => Sys2Proof.Machine.execBle d s
  | .sra r => Sys2Proof.Machine.execSra r s
  | .sla r => Sys2Proof.Machine.execSla r s
  | .srl r => Sys2Proof.Machine.execSrl r s
  | .sll r => Sys2Proof.Machine.execSll r s
  | .rra r => Sys2Proof.Machine.execRra r s
  | .rla r => Sys2Proof.Machine.execRla r s
  | .rrl r => Sys2Proof.Machine.execRrl r s
  | .rll r => Sys2Proof.Machine.execRll r s
  | .ld r b => Sys2Proof.Machine.execLd r b s
  | .st r b => Sys2Proof.Machine.execSt r b s
  | .sbc r b => Sys2Proof.Machine.execSbc r b s
  | .adc r b => Sys2Proof.Machine.execAdc r b s
  | .sub r b => Sys2Proof.Machine.execSub r b s
  | .add r b => Sys2Proof.Machine.execAdd r b s
  | .eor r b => Sys2Proof.Machine.execEor r b s
  | .or r b => Sys2Proof.Machine.execOr r b s
  | .and r b => Sys2Proof.Machine.execAnd r b s
  | .cmp r b => Sys2Proof.Machine.execCmp r b s

end Sys2Proof.Machine
end

