-- ==== Sys2Proof/Machine/Fetch.lean ====
section
/-! DEFINITION. Fetching an instruction: the first word at `{0, pc}`, and the second word at
`{0, (pc + 1) mod 256}` only where the first calls for one (R27, R32, R35, R62). -/

namespace Sys2Proof.Machine

/-- The first instruction word, `w1` (R62). -/
def State.firstWord (s : State) : Word := s.readWord (programAddr s.pc)

/-- The word after the first, `w2`, read only for a two-word instruction (R35, R68 to R73). -/
def State.secondWord (s : State) : Word := s.readWord (programAddr (s.pc + 1))

/-- The instruction at `pc` under a numbering, or none where the first word is unknown (R63). -/
def fetchInstrWith (p : EncodingParams) (s : State) : Option Instr :=
  match decodeFirst p s.firstWord with
  | .unknown => none
  | .oneWord i => some i
  | .twoWord f => some (f s.secondWord)

/-- The instruction at `pc` under the spec's numbers. -/
def fetchInstr (s : State) : Option Instr := fetchInstrWith defaultEncoding s

/-- The state with two words stored where the next step fetches. -/
def State.placeWords (s : State) (w1 w2 : Word) : State :=
  (s.writeWord (programAddr s.pc) w1).writeWord (programAddr (s.pc + 1)) w2

end Sys2Proof.Machine
end

