-- ==== Sys2Proof/Machine/Configured.lean ====
section
/-! DEFINITION. The step as a function of the machine's configuration (R6): which numbering the words
are read by, and whether the I/O conditions are wired. -/

namespace Sys2Proof.Machine

/-- The values R6 gives the parameters (D1 to D5, D13, D14). -/
def defaultConfig : MachineConfig :=
  { encoding := defaultEncoding, ioCondWired := ioCondWired, resetValues := Config.resetValues }

/-- The meaning of an instruction under a configuration. `BNI` and `BNO` read the parameter
`IO_COND_WIRED` (R118, R126); every other instruction reads none and has its meaning in `exec`. -/
def execWith (c : MachineConfig) (i : Instr) (s : State) : Host.Outcome State Fault Refusal :=
  match i with
  | .bni d => .next (s.branchWith c.ioCondWired .noInput d)
  | .bno d => .next (s.branchWith c.ioCondWired .noOutput d)
  | other => exec other s

/-- The one operation of the block (R59): the instruction at `pc`, or `Halt(DecodeFailure)` where its
first word is unknown under the numbering (R63, R136). -/
def stepWith (c : MachineConfig) (s : State) : Host.Outcome State Fault Refusal :=
  match fetchInstrWith c.encoding s with
  | none => .next (s.takeHalt .decodeFailure)
  | some i => execWith c i s

end Sys2Proof.Machine
end

