-- ==== Sys2Proof/Machine/Step.lean ====
section
/-! DEFINITION. The step of the machine with the spec's configuration: fetch, decode, and the meaning of what
was decoded (R59, R61, R78). -/

namespace Sys2Proof.Machine

/-- The one operation of the block (R59) with the parameters at the values R6 gives them. -/
def step (s : State) : Host.Outcome State Fault Refusal := stepWith defaultConfig s

/-- `s` with the instruction whose bits are `w` (numbered as in spec/opcode_table.json, every bit above
`nbits` zero) stored at `{0, pc}` and `{0, (pc + 1) mod 256}`, where the next step fetches. It stands for
the loader's work (R154; log entry 8). -/
def State.withFetchWord (s : State) (nbits w : Nat) : State :=
  s.placeWords (BitVec.ofNat 8 (w % 2 ^ nbits)) (BitVec.ofNat 8 (w % 2 ^ nbits / 256))

end Sys2Proof.Machine
end

