-- ==== Sys2Proof/Machine/Boundary.lean ====
section
/-! DEFINITION. What the outside agents (driver, loader, I/O collaborator) may do to the machine between
two steps, never during one (R22, R40, R83, R152 to R154; U4). Each such change is an input of the run. -/

namespace Sys2Proof.Machine

/-- One change made from outside, between steps. -/
inductive BoundaryEvent where
  /-- Reset, in any state (R152). -/
  | reset
  /-- The driver prepares `pc`, the registers and the flags (R154). -/
  | prepare (pc acc ix : Word) (flags : Flags)
  /-- The loader or the driver writes a memory word (R40, R154). -/
  | load (a : Addr) (v : Word)
  /-- The I/O collaborator has taken the output word and clears `obuf.flag` (R17, R83). -/
  | takeOutput
  /-- The driver writes the output buffer, as it may write any state (R22, R153). -/
  | setOutput (flag : Bool) (data : Word)
  /-- The I/O collaborator or the driver changes the input buffer, to anything (R18, R83, U4). -/
  | setInput (flag : Bool) (data : Word)
deriving DecidableEq, Repr

/-- The state after one outside change, with the reset values of the configuration (R6). -/
def State.atBoundary (s : State) (rv : ResetValues) : BoundaryEvent → State
  | .reset => applyReset rv s
  | .prepare pc acc ix flags => { s with pc := pc, acc := acc, ix := ix, flags := flags }
  | .load a v => s.writeWord a v
  | .takeOutput => { s with obuf := { s.obuf with flag := false } }
  | .setOutput flag data => { s with obuf := ⟨flag, data⟩ }
  | .setInput flag data => { s with ibuf := ⟨flag, data⟩ }

/-- The state after a list of outside changes, in order. -/
def State.afterEvents (s : State) (rv : ResetValues) (es : List BoundaryEvent) : State :=
  es.foldl (fun t e => t.atBoundary rv e) s

end Sys2Proof.Machine
end

