-- ==== Sys2Proof/Safety.lean ====
section
/-! DEFINITION. The words in which claims speak of a run: when a step halted, how a run ends (R143), and
which instruction may write what (the tables of R12, R14 and R76). -/

namespace Sys2Proof.Safety

open Sys2Proof.Machine

/-- The halt reason of the last step, if it halted (R60). -/
def haltReason? (s : State) : Option HaltReason :=
  match s.outcome with
  | some (.halt r) => some r
  | some .continues => none
  | none => none

/-- How a driven run ends. -/
inductive RunEnd where
  /-- A step's outcome was a halt: the end of the run, with its final state (R143). -/
  | halted (r : HaltReason) (s : State)
  /-- The driver's bound was reached before any halt (R146). -/
  | bounded (s : State)
  /-- A step answered no next state; no step of this model does. -/
  | stopped
deriving DecidableEq, Repr

/-- The driver loop of a machine with configuration `c`: one step per entry, the entry's outside changes made just before it, up to and
including the first step whose outcome is a halt (R143, R153). -/
def driveSteps (c : MachineConfig) : List (List BoundaryEvent) → State → RunEnd
  | [], s => .bounded s
  | es :: rest, s =>
    match stepWith c (s.afterEvents c.resetValues es) with
    | .next t =>
      match haltReason? t with
      | some r => .halted r t
      | none => driveSteps c rest t
    | .fault _ => .stopped
    | .refused _ => .stopped

/-- The state after one step per entry, whatever the outcomes: the driver that R20 lets request a step
after a halt, too. -/
def stateAfter (c : MachineConfig) : List (List BoundaryEvent) → State → Option State
  | [], s => some s
  | es :: rest, s =>
    match stepWith c (s.afterEvents c.resetValues es) with
    | .next t => stateAfter c rest t
    | .fault _ => none
    | .refused _ => none

/-- A run "ended well iff the reason is `HaltInstruction`" (R143). -/
def RunEnd.endedWell : RunEnd → Bool
  | .halted .haltInstruction _ => true
  | .halted .decodeFailure _ => false
  | .halted .unsupportedSubMode _ => false
  | .halted .operandFetchFailure _ => false
  | .bounded _ => false
  | .stopped => false

/-- The invariant of every state: memory is in its canonical form (log entry 2). Every other range of
R21 is in the types. -/
def MemoryCanonical (s : State) : Prop := s.mem.wf = true

/-! ### What an instruction leaves alone -/

/-- Every general register but `r` is as before. -/
def SameRegsBut (r : Reg) (s t : State) : Prop := ∀ r', r' ≠ r → t.reg r' = s.reg r'

/-- Both general registers are as before. -/
def SameRegs (s t : State) : Prop := ∀ r, t.reg r = s.reg r

/-- Every word of memory reads as before. -/
def SameMemory (s t : State) : Prop := ∀ a, t.readWord a = s.readWord a

/-- Both buffers, and the count of drawn words, are as before. -/
def SamePorts (s t : State) : Prop := t.obuf = s.obuf ∧ t.ibuf = s.ibuf ∧ t.draws = s.draws

/-- Registers, flags, memory and buffers are as before: at most `pc` and the outcome differ. -/
def Undisturbed (s t : State) : Prop :=
  SameRegs s t ∧ t.flags = s.flags ∧ SameMemory s t ∧ SamePorts s t

/-- The step's outcome is `Continue` and `pc` stands `len` words further, modulo 256 (R9, R77). -/
def Advanced (len : Nat) (s t : State) : Prop :=
  t.pc = s.pc + BitVec.ofNat 8 len ∧ t.outcome = some .continues

/-- The step's outcome is `Continue` and `pc` is the target where the condition holds, else two words
further (R77, R113). -/
def Branched (taken : Prop) (d : Word) (s t : State) : Prop :=
  (taken → t.pc = d) ∧ (¬ taken → t.pc = s.pc + 2) ∧ t.outcome = some .continues

/-- The step's outcome is `Halt(r)` and `pc` stands one word further (R139, R140). -/
def Halted (r : HaltReason) (s t : State) : Prop :=
  t.pc = s.pc + 1 ∧ t.outcome = some (.halt r)

/-- `Z` and `N` follow the result `res` (R89). -/
def ResultFlags (res : Word) (f : Flags) : Prop :=
  (f.z = true ↔ res = 0) ∧ f.n = res.getLsbD 7

/-- A value fits the signed reading of a word, -128 to 127 (R90). -/
def FitsSigned (x : Int) : Prop := -128 ≤ x ∧ x ≤ 127

/-! ### The verdict on a first word, and numberings -/

/-- The outcome of a step as the table of R54 gives it from the first word: the normal halt of `HLT`,
the three causes of an error halt, or `Continue`. Written from that table, not from the decoder. -/
def responseOfWord (w1 : Word) : StepOutcome :=
  let p := (w1 >>> 4).toNat
  let b := (w1 &&& 0x07).toNat
  if w1 = 0x0F then .halt .haltInstruction
  else if p = 0 ∧ w1 ∉ [0x00, 0x0A, 0x0B] ∨ p = 1 ∧ w1 ∉ [0x10, 0x1F] ∨ p = 2 ∧ w1 ∉ [0x20, 0x2F] ∨
      p = 5 ∨ 6 ≤ p ∧ b = 3 then .halt .decodeFailure
  else if p = 4 ∧ w1 &&& 0xFB ∉ [0x40, 0x4B] then .halt .unsupportedSubMode
  else if p = 7 ∧ b ∈ [0, 1, 2] then .halt .operandFetchFailure
  else .continues

/-- Every step of the entries was taken at a state whose first word the table of R54 answers with
`Continue`. -/
def ContinuesThrough (c : MachineConfig) (inputs : List (List BoundaryEvent)) (s : State) : Prop :=
  ∀ pre es rest, inputs = pre ++ es :: rest →
    ∃ u, stateAfter c pre s = some u ∧
      responseOfWord (u.afterEvents c.resetValues es).firstWord = .continues

/-- The outcome of the step at `s` with the word `w` standing at `{0, pc}`. -/
def outcomeHolding (s : State) (w : Word) : Option StepOutcome :=
  match step (s.writeWord (programAddr s.pc) w) with
  | .next t => t.outcome
  | .fault _ => none
  | .refused _ => none

/-- The 256 first words. -/
def firstWords : List Word := (List.range 256).map (BitVec.ofNat 8)

/-- A numbering gives different instructions different first words: every table is one to one, and the
prefixes of the four formats are apart (R42 to R45, R49). -/
structure DistinctCodes (p : EncodingParams) : Prop where
  fixed : ∀ o o', p.fixedByte o = p.fixedByte o' → o = o'
  twoOperand : ∀ o o', p.twoOperandPrefix o = p.twoOperandPrefix o' → o = o'
  mode : ∀ m m', p.modeCode m = p.modeCode m' → m = m'
  cond : ∀ c c', p.condCode c = p.condCode c' → c = c'
  subMode : ∀ m m', p.subModeCode m = p.subModeCode m' → m = m'
  fixedBranch : ∀ o, prefixOf (p.fixedByte o) ≠ p.branchPrefix
  fixedShrot : ∀ o, prefixOf (p.fixedByte o) ≠ p.shrotPrefix
  fixedTwoOperand : ∀ o o', prefixOf (p.fixedByte o) ≠ p.twoOperandPrefix o'
  branchShrot : p.branchPrefix ≠ p.shrotPrefix
  branchTwoOperand : ∀ o, p.branchPrefix ≠ p.twoOperandPrefix o
  shrotTwoOperand : ∀ o, p.shrotPrefix ≠ p.twoOperandPrefix o

/-- The spec's numbers with the family bit in bit 2, the alternative of note D5. -/
def alternativeEncoding : EncodingParams := { defaultEncoding with familyBit := .bit2 }

/-! ### The tables of R12, R14 and R37 -/

/-- Which of the four flags an instruction writes: the table of R14. -/
structure FlagSet where
  c : Bool
  v : Bool
  n : Bool
  z : Bool
deriving DecidableEq, Repr

/-- All four flags. -/
def FlagSet.every : FlagSet := ⟨true, true, true, true⟩

/-- No flag. -/
def FlagSet.empty : FlagSet := ⟨false, false, false, false⟩

/-- The table of R14: the flags each instruction writes. -/
def flagsWritten : Instr → FlagSet
  | .add _ _ => .every
  | .adc _ _ => .every
  | .sub _ _ => .every
  | .cmp _ _ => .every
  | .sbc _ _ => .every
  | .and _ _ => .every
  | .or _ _ => .every
  | .eor _ _ => .every
  | .sra _ => ⟨true, false, true, true⟩
  | .rll _ => ⟨true, false, true, true⟩
  | .rcf => ⟨true, false, false, false⟩
  | .scf => ⟨true, false, false, false⟩
  | .ba _ => .empty
  | .bnz _ => .empty
  | .bzp _ => .empty
  | .bp _ => .empty
  | .bni _ => .empty
  | .bnc _ => .empty
  | .bge _ => .empty
  | .bgt _ => .empty
  | .bvf _ => .empty
  | .bz _ => .empty
  | .bn _ => .empty
  | .bzn _ => .empty
  | .bno _ => .empty
  | .bc _ => .empty
  | .blt _ => .empty
  | .ble _ => .empty
  | .ld _ _ => .empty
  | .st _ _ => .empty
  | .jal _ => .empty
  | .jr => .empty
  | .nop => .empty
  | .hlt => .empty
  | .out => .empty
  | .inp => .empty
  | .sla _ => .empty
  | .srl _ => .empty
  | .sll _ => .empty
  | .rra _ => .empty
  | .rla _ => .empty
  | .rrl _ => .empty

/-- The "writes" column of the table of R12: the one general register an instruction writes, if any. -/
def registerWritten : Instr → Option Reg
  | .ld r _ => some r
  | .add r _ => some r
  | .adc r _ => some r
  | .sub r _ => some r
  | .sbc r _ => some r
  | .and r _ => some r
  | .or r _ => some r
  | .eor r _ => some r
  | .sra r => some r
  | .rll r => some r
  | .jal _ => some .acc
  | .inp => some .acc
  | .st _ _ => none
  | .cmp _ _ => none
  | .jr => none
  | .out => none
  | .nop => none
  | .hlt => none
  | .rcf => none
  | .scf => none
  | .ba _ => none
  | .bnz _ => none
  | .bzp _ => none
  | .bp _ => none
  | .bni _ => none
  | .bnc _ => none
  | .bge _ => none
  | .bgt _ => none
  | .bvf _ => none
  | .bz _ => none
  | .bn _ => none
  | .bzn _ => none
  | .bno _ => none
  | .bc _ => none
  | .blt _ => none
  | .ble _ => none
  | .sla _ => none
  | .srl _ => none
  | .sll _ => none
  | .rra _ => none
  | .rla _ => none
  | .rrl _ => none

/-- The address an instruction stores to, computed from the state before it, if it stores: only `ST`
with a memory mode does (R37, R87). -/
def storeAddr : Instr → State → Option Addr
  | .st _ b, s => s.destAddr b
  | .nop, _ => none
  | .jal _, _ => none
  | .jr, _ => none
  | .hlt, _ => none
  | .out, _ => none
  | .inp, _ => none
  | .rcf, _ => none
  | .scf, _ => none
  | .ba _, _ => none
  | .bnz _, _ => none
  | .bzp _, _ => none
  | .bp _, _ => none
  | .bni _, _ => none
  | .bnc _, _ => none
  | .bge _, _ => none
  | .bgt _, _ => none
  | .bvf _, _ => none
  | .bz _, _ => none
  | .bn _, _ => none
  | .bzn _, _ => none
  | .bno _, _ => none
  | .bc _, _ => none
  | .blt _, _ => none
  | .ble _, _ => none
  | .sra _, _ => none
  | .sla _, _ => none
  | .srl _, _ => none
  | .sll _, _ => none
  | .rra _, _ => none
  | .rla _, _ => none
  | .rrl _, _ => none
  | .rll _, _ => none
  | .ld _ _, _ => none
  | .sbc _ _, _ => none
  | .adc _ _, _ => none
  | .sub _ _, _ => none
  | .add _ _, _ => none
  | .eor _ _, _ => none
  | .or _ _, _ => none
  | .and _ _, _ => none
  | .cmp _ _, _ => none

end Sys2Proof.Safety
end

