-- ==== Sys2Proof/Certificates/Slice0/Obligations.lean ====
section
/-! DEFINITION. The statements for the provers. Each says what the machine or one of its operations
does; the rule of spec/ it formalises stands in its docstring. -/

open Sys2Proof Sys2Proof.Machine Sys2Proof.Safety

/-! ### Decoding and encoding -/

/-- For every instruction that has an encoding, decoding its words, whatever follows them, gives it
back and leaves what follows (R42 to R53). -/
def Obligations.DecodeEncodeAgree : Prop :=
  ∀ (i : Instr) (rest : List Word), i.wf defaultEncoding = true →
    decode defaultEncoding (encode defaultEncoding i ++ rest) = .ok (i, rest)

/-- The same for EVERY numbering whose codes are distinct: the round trip rests on no particular number
of the spec (R6, D1 to D5). -/
def Obligations.DecodeEncodeAgreeForEveryNumbering : Prop :=
  ∀ (p : EncodingParams), DistinctCodes p → ∀ (i : Instr) (rest : List Word), i.wf p = true →
    decode p (encode p i ++ rest) = .ok (i, rest)

/-- What is decoded encodes back to the words it came from, but for bit 2 of a shift/rotate first word,
the one bit the hardware does not read (R57), which the encoder writes 0 (the model's choice, log entry
10: R44 and R52 allow both values); and what is decoded has an encoding. -/
def Obligations.DecodedWordsReencode : Prop :=
  ∀ (w1 : Word) (rest rest' : List Word) (i : Instr),
    decode defaultEncoding (w1 :: rest) = .ok (i, rest') →
      i.wf defaultEncoding = true ∧
      encodeFirst defaultEncoding i = (if prefixOf w1 = 0x4 then w1 &&& 0xFB else w1) ∧
      rest = (encode defaultEncoding i).tail ++ rest'

/-- The second word is never decoded: whatever its value, it is the operand word as it stands (R46,
R56). -/
def Obligations.SecondWordIsTheOperand : Prop :=
  ∀ (w1 : Word) (f : Word → Instr), decodeFirst defaultEncoding w1 = .twoWord f →
    ∀ w2, encodeSecond (f w2) = some w2 ∧ encodeFirst defaultEncoding (f w2) = w1

/-- The decoder takes two words exactly where the length rule R53 says two. -/
def Obligations.LengthFollowsFirstWord : Prop :=
  ∀ (w1 : Word) (rest rest' : List Word) (i : Instr),
    decode defaultEncoding (w1 :: rest) = .ok (i, rest') →
      (w1 :: rest).length = lengthOfWord w1 + rest'.length

/-- A few words written out from the encoding tables decode to the instructions they stand for (R49 to
R52). -/
def Obligations.WrittenWordsDecode : Prop :=
  decode defaultEncoding [0b00001010, 0x80] = .ok (.jal 0x80, []) ∧
  decode defaultEncoding [0b00111110, 0x0A] = .ok (.blt 0x0A, []) ∧
  decode defaultEncoding [0b01001011] = .ok (.rll .ix, []) ∧
  decode defaultEncoding [0b01100101, 0x80] = .ok (.ld .acc (.absD 0x80), []) ∧
  decode defaultEncoding [0b01111110, 0x30] = .ok (.st .ix (.idxP 0x30), []) ∧
  decode defaultEncoding [0b10110010, 0x05] = .ok (.add .acc (.imm 0x05), []) ∧
  decode defaultEncoding [0b11101000] = .ok (.and .ix .acc, []) ∧
  decode defaultEncoding [0b01010101] = .error .unknownInstruction

/-- The census of R54, of the machine's own steps: put each of the 256 words at `pc` of any state and
step; 76, 12 and 6 end in an error halt by cause, one in the normal halt, 161 continue. -/
def Obligations.FirstWordCensus : Prop :=
  ∀ s : State,
    firstWords.countP (outcomeHolding s · = some (.halt .decodeFailure)) = 76 ∧
    firstWords.countP (outcomeHolding s · = some (.halt .unsupportedSubMode)) = 12 ∧
    firstWords.countP (outcomeHolding s · = some (.halt .operandFetchFailure)) = 6 ∧
    firstWords.countP (outcomeHolding s · = some (.halt .haltInstruction)) = 1 ∧
    firstWords.countP (outcomeHolding s · = some .continues) = 161

/-! ### The step -/

/-- Where the words at `pc` decode to an instruction, the step is that instruction's meaning at that
state; the step adds nothing of its own (R59, R61). -/
def Obligations.StepRunsDecodedInstruction : Prop :=
  ∀ (s : State) (i : Instr) (rest : List Word),
    decode defaultEncoding [s.firstWord, s.secondWord] = .ok (i, rest) → step s = exec i s

/-- Where the first word is unknown the step takes `Halt(DecodeFailure)`: `pc` one word further, nothing
else changed (R136, R139). -/
def Obligations.UnknownWordHalts : Prop :=
  ∀ (s : State) (rest : List Word),
    decode defaultEncoding (s.firstWord :: rest) = .error .unknownInstruction →
      ∃ t, step s = .next t ∧ Halted .decodeFailure s t ∧ Undisturbed s t

/-- What a configuration changes of the step (R6). Under any numbering with distinct codes, where the
words at `pc` are the encoding of an instruction, the step is that instruction's meaning; only `BNI` and
`BNO` read the configuration in their meaning; the step is total under every configuration; and `step`
and `exec` are those of the default one. -/
def Obligations.StepUnderEveryConfiguration : Prop :=
  (∀ (c : MachineConfig), DistinctCodes c.encoding → ∀ (i : Instr) (s : State),
    i.wf c.encoding = true → s.firstWord = encodeFirst c.encoding i →
      (∀ w2, encodeSecond i = some w2 → s.secondWord = w2) → stepWith c s = execWith c i s) ∧
  (∀ (c : MachineConfig) (i : Instr) (s : State),
    (∀ d, i ≠ .bni d) → (∀ d, i ≠ .bno d) → execWith c i s = exec i s) ∧
  (∀ (c : MachineConfig) (s : State), ∃ t, stepWith c s = .next t) ∧
  (∀ (i : Instr) (s : State), stepWith defaultConfig s = step s ∧ execWith defaultConfig i s = exec i s)

/-- The step is total: in every state it answers a next state (R59, R31, R160; property 6 of the test
vectors). -/
def Obligations.EveryStepCompletes : Prop :=
  ∀ s : State, ∃ t, step s = .next t

/-- The outcome of every step is decided by the first word alone, as the tables of R54 and R135 say: the
three error causes (R136 to R138), the normal halt of `HLT` (R140), else `Continue` (R60, R78). -/
def Obligations.OutcomeFollowsFirstWord : Prop :=
  ∀ s t : State, step s = .next t → t.outcome = some (responseOfWord s.firstWord)

/-- After a step that ends in any halt, `pc` is one word further and nothing else has changed (R139 for
the three error reasons, R140 for `HLT`). The equality of records says it of the model's own fields too:
the list that holds memory (log entry 2), the count of drawn words (log entry 3), the outcome (log
entry 1). -/
def Obligations.HaltChangesOnlyPc : Prop :=
  ∀ (s t : State) (r : HaltReason), step s = .next t → t.outcome = some (.halt r) →
    t = { s with pc := s.pc + 1, outcome := some (.halt r) }

/-- The core keeps no halted latch: a step does the same whatever the last outcome was (R20, R143). -/
def Obligations.StepIgnoresLastOutcome : Prop :=
  ∀ (s : State) (o : Option StepOutcome), step { s with outcome := o } = step s

/-- What is fetched depends on `pc` and the program region alone: no word of the data region is ever
executed (R27, R132). -/
def Obligations.FetchSeesProgramRegionOnly : Prop :=
  ∀ s s' : State, s'.pc = s.pc →
    (∀ w, s'.readWord (programAddr w) = s.readWord (programAddr w)) → fetchInstr s' = fetchInstr s

/-- Where `pc` stands after any step (R77, R139): at the second word after `JAL`, at `acc` after `JR`,
at the second word or two words further after a branch, else past the words R53 counts. -/
def Obligations.PcAfterEveryStep : Prop :=
  ∀ s t : State, step s = .next t →
    if s.firstWord = 0x0A then t.pc = s.secondWord
    else if s.firstWord = 0x0B then t.pc = s.acc
    else if prefixOf s.firstWord = 0x3 then t.pc = s.secondWord ∨ t.pc = s.pc + 2
    else t.pc = s.pc + BitVec.ofNat 8 (lengthOfWord s.firstWord)

/-! ### Invariants and whole-machine frames -/

/-- Every step keeps memory in its canonical form (log entry 2: the form is the model's). -/
def Obligations.StepKeepsMemoryCanonical : Prop :=
  ∀ s t : State, MemoryCanonical s → step s = .next t → MemoryCanonical t

/-- The machine after reset has memory in canonical form. -/
def Obligations.ResetMemoryIsCanonical : Prop := MemoryCanonical State.reset

/-- Along every driven run, under every configuration and whatever the outside agents do between steps, memory stays canonical and no
step ever answers anything but a next state (R22, R59, R143). -/
def Obligations.EveryRunStaysCanonical : Prop :=
  ∀ (c : MachineConfig) (inputs : List (List BoundaryEvent)) (s : State), MemoryCanonical s →
    match driveSteps c inputs s with
    | .halted r t => MemoryCanonical t ∧ t.outcome = some (.halt r)
    | .bounded t => MemoryCanonical t
    | .stopped => False

/-- A run ends with its first halt (R143). Under the spec's numbers: if it ended `halted r t`, its last
step was taken at a state whose first word the table of R54 answers with `Halt(r)`, `t` is that state with
`pc` one word further, every earlier step was taken at a first word that continues, and more steps
offered change nothing of the end; if the driver's bound ended it, every step continued. -/
def Obligations.RunEndsAtFirstHalt : Prop :=
  ∀ (c : MachineConfig), c.encoding = defaultEncoding →
  ∀ (inputs : List (List BoundaryEvent)) (s t : State),
    (∀ r, driveSteps c inputs s = .halted r t →
      (∃ pre es rest u, inputs = pre ++ es :: rest ∧ ContinuesThrough c pre s ∧
        stateAfter c pre s = some u ∧
        responseOfWord (u.afterEvents c.resetValues es).firstWord = .halt r ∧
        t = (u.afterEvents c.resetValues es).takeHalt r) ∧
      ∀ more, driveSteps c (inputs ++ more) s = .halted r t) ∧
    (driveSteps c inputs s = .bounded t →
      ContinuesThrough c inputs s ∧ stateAfter c inputs s = some t)

/-- Memory changes only by `ST`, at its effective address and nowhere else, and there it holds the
register's value (R16, R30, R37, R87). -/
def Obligations.OnlyStoreChangesMemory : Prop :=
  ∀ (i : Instr) (s t : State), exec i s = .next t →
    (∀ a, storeAddr i s ≠ some a → t.readWord a = s.readWord a) ∧
    (∀ a, storeAddr i s = some a → ∃ r b, i = .st r b ∧ t.readWord a = s.reg r)

/-- No instruction writes a general register but the one the table of R12 gives it. -/
def Obligations.RegistersWrittenAsTabled : Prop :=
  ∀ (i : Instr) (s t : State), exec i s = .next t →
    ∀ r, registerWritten i ≠ some r → t.reg r = s.reg r

/-- No instruction writes a flag but those the table of R14 gives it. -/
def Obligations.FlagsWrittenAsTabled : Prop :=
  ∀ (i : Instr) (s t : State), exec i s = .next t →
    ((flagsWritten i).c = false → t.flags.c = s.flags.c) ∧
    ((flagsWritten i).v = false → t.flags.v = s.flags.v) ∧
    ((flagsWritten i).n = false → t.flags.n = s.flags.n) ∧
    ((flagsWritten i).z = false → t.flags.z = s.flags.z)

/-- `OUT` alone writes the output buffer; `IN` alone the input buffer, and of it only the flag (R17,
R18; property 7 of the test vectors). -/
def Obligations.BuffersWrittenOnlyByOutAndIn : Prop :=
  ∀ (i : Instr) (s t : State), exec i s = .next t →
    (i ≠ .out → t.obuf = s.obuf) ∧
    (i ≠ .inp → t.ibuf = s.ibuf ∧ t.draws = s.draws) ∧
    t.ibuf.data = s.ibuf.data ∧ (t.ibuf.flag = true → s.ibuf.flag = true)

/-! ### Memory, addresses, reset -/

/-- After `MemWrite(addr, 1, v)` the word at `addr` is `v`, every other word is as before, and nothing
but memory changes (R29, R30). -/
def Obligations.WriteThenRead : Prop :=
  ∀ (s : State) (a : Addr) (v : Word),
    (s.writeWord a v).readWord a = v ∧
    (∀ b, b ≠ a → (s.writeWord a v).readWord b = s.readWord b) ∧
    { s.writeWord a v with mem := s.mem } = s

/-- Effective addresses and B operands: the region bit is the mode's, the low byte is the displacement
or `(ix + d) mod 256`, so the sum never leaves its region; the value is the word there, and in the
other modes the register or the second word itself (R26, R66 to R72). -/
def Obligations.AddressesAndOperandValues : Prop :=
  ∀ (s : State) (d : Word),
    (∃ a, s.operandAddr (.absP d) = some a ∧ s.destAddr (.absP d) = some a ∧
      a.toNat = d.toNat ∧ s.operandValue (.absP d) = s.readWord a) ∧
    (∃ a, s.operandAddr (.absD d) = some a ∧ s.destAddr (.absD d) = some a ∧
      a.toNat = 256 + d.toNat ∧ s.operandValue (.absD d) = s.readWord a) ∧
    (∃ a, s.operandAddr (.idxP d) = some a ∧ s.destAddr (.idxP d) = some a ∧
      a.toNat = (s.ix.toNat + d.toNat) % 256 ∧ s.operandValue (.idxP d) = s.readWord a) ∧
    (∃ a, s.operandAddr (.idxD d) = some a ∧ s.destAddr (.idxD d) = some a ∧
      a.toNat = 256 + (s.ix.toNat + d.toNat) % 256 ∧ s.operandValue (.idxD d) = s.readWord a) ∧
    (s.operandAddr .acc = none ∧ s.destAddr .acc = none ∧ s.operandValue .acc = s.acc) ∧
    (s.operandAddr .ix = none ∧ s.destAddr .ix = none ∧ s.operandValue .ix = s.ix) ∧
    (s.operandAddr (.imm d) = none ∧ s.destAddr .imm = none ∧ s.operandValue (.imm d) = d)

/-- What reset leaves, in any state (R151, R152): `pc`, `acc`, `ix`, the flags and `obuf.flag` at the
reset values, which are 0 unless configured otherwise (R6); `ibuf` and every memory word as they were; no
outcome. That `obuf.data` is as it was is the model's choice (log entry 4). -/
def Obligations.ResetFromAnyState : Prop :=
  (∀ (rv : ResetValues) (s : State), ∃ t, s.atBoundary rv .reset = t ∧
    t.pc = rv.pc ∧ t.acc = rv.acc ∧ t.ix = rv.ix ∧ t.flags = ⟨rv.c, rv.v, rv.n, rv.z⟩ ∧
    t.obuf.flag = rv.obufFlag ∧ t.obuf.data = s.obuf.data ∧ t.ibuf = s.ibuf ∧ SameMemory s t ∧
    t.outcome = none) ∧
  defaultConfig.resetValues = ⟨0x00, 0x00, 0x00, false, false, false, false, false⟩

/-- The reset state agrees with the table of R151 wherever that table gives a value, and nothing has
been written to memory; with other reset values (R6) it holds those. -/
def Obligations.ResetStateValues : Prop :=
  (∀ rv : ResetValues,
    (State.resetWith rv).pc = rv.pc ∧ (State.resetWith rv).acc = rv.acc ∧
    (State.resetWith rv).ix = rv.ix ∧ (State.resetWith rv).flags = ⟨rv.c, rv.v, rv.n, rv.z⟩ ∧
    (State.resetWith rv).obuf.flag = rv.obufFlag) ∧
  State.reset.pc = 0x00 ∧ State.reset.acc = 0x00 ∧ State.reset.ix = 0x00 ∧
  State.reset.flags = ⟨false, false, false, false⟩ ∧ State.reset.obuf.flag = false ∧
  State.reset.mem = [] ∧ State.reset.outcome = none

/-! ### NOP, HLT, RCF, SCF, OUT, IN -/

/-- `NOP` completes in every state and changes nothing but `pc` (R79). -/
def Obligations.NopOnlyAdvances : Prop :=
  ∀ s : State, ∃ t, exec .nop s = .next t ∧ Advanced 1 s t ∧ Undisturbed s t

/-- `HLT` answers `Halt(HaltInstruction)` and changes nothing but `pc` (R80, R140). -/
def Obligations.HltHaltsNormally : Prop :=
  ∀ s : State, ∃ t, exec .hlt s = .next t ∧ Halted .haltInstruction s t ∧ Undisturbed s t

/-- `RCF` and `SCF` write `C` and nothing else but `pc` (R81, R82). -/
def Obligations.CarryInstructionsWriteOnlyCarry : Prop :=
  ∀ s : State,
    (∃ t, exec .rcf s = .next t ∧ t.flags = ⟨false, s.flags.v, s.flags.n, s.flags.z⟩ ∧
      Advanced 1 s t ∧ SameRegs s t ∧ SameMemory s t ∧ SamePorts s t) ∧
    (∃ t, exec .scf s = .next t ∧ t.flags = ⟨true, s.flags.v, s.flags.n, s.flags.z⟩ ∧
      Advanced 1 s t ∧ SameRegs s t ∧ SameMemory s t ∧ SamePorts s t)

/-- `OUT` latches `acc` and sets the flag, whatever the flag was; nothing else changes but `pc` (R84). -/
def Obligations.OutLatchesAccumulator : Prop :=
  ∀ s : State, ∃ t, exec .out s = .next t ∧ t.obuf = ⟨true, s.acc⟩ ∧ Advanced 1 s t ∧
    SameRegs s t ∧ t.flags = s.flags ∧ SameMemory s t ∧ t.ibuf = s.ibuf ∧ t.draws = s.draws

/-- `IN` with a word pending: the word to `acc`, the flag cleared, nothing else but `pc` (R85). -/
def Obligations.InTakesPendingWord : Prop :=
  ∀ s : State, s.ibuf.flag = true → ∃ t, exec .inp s = .next t ∧
    t.acc = s.ibuf.data ∧ t.ibuf = ⟨false, s.ibuf.data⟩ ∧ Advanced 1 s t ∧
    t.ix = s.ix ∧ t.flags = s.flags ∧ SameMemory s t ∧ t.obuf = s.obuf ∧ t.draws = s.draws

/-- `IN` with no word pending completes too: `acc` takes a word nothing is said of, the flag stays 0,
nothing else changes but `pc` and the count of drawn words (R85; log entry 3). -/
def Obligations.InWithoutWordCompletes : Prop :=
  ∀ s : State, s.ibuf.flag = false → ∃ t, exec .inp s = .next t ∧
    t.ibuf = s.ibuf ∧ t.draws = s.draws + 1 ∧ Advanced 1 s t ∧
    t.ix = s.ix ∧ t.flags = s.flags ∧ SameMemory s t ∧ t.obuf = s.obuf

/-! ### LD, ST -/

/-- `LD r, b` in all fourteen forms: the B operand's value, read before the write, to `r`; no flag, no
memory word and no other register changes (R86). -/
def Obligations.LoadWritesRegister : Prop :=
  ∀ (r : Reg) (b : Operand) (s : State), ∃ t, exec (.ld r b) s = .next t ∧
    t.reg r = s.operandValue b ∧ SameRegsBut r s t ∧ t.flags = s.flags ∧ Advanced b.length s t ∧
    SameMemory s t ∧ SamePorts s t

/-- `ST r, b` in its eight legal forms: the register's value to the effective address, every other
memory word, every register and every flag unchanged (R87). -/
def Obligations.StoreWritesOneWord : Prop :=
  ∀ (r : Reg) (b : Dest) (s : State) (a : Addr), s.destAddr b = some a →
    ∃ t, exec (.st r b) s = .next t ∧ t.readWord a = s.reg r ∧
      (∀ a', a' ≠ a → t.readWord a' = s.readWord a') ∧
      SameRegs s t ∧ t.flags = s.flags ∧ Advanced 2 s t ∧ SamePorts s t

/-- `ST` with `ACC`, `IX` or `IMM` takes `Halt(OperandFetchFailure)`: `pc` one word further, nothing
else changed (R88, R138). -/
def Obligations.StoreWithoutAddressHalts : Prop :=
  ∀ (r : Reg) (b : Dest) (s : State), b = .acc ∨ b = .ix ∨ b = .imm →
    ∃ t, exec (.st r b) s = .next t ∧ Halted .operandFetchFailure s t ∧ Undisturbed s t

/-- A store followed by a load from the same effective address yields the value stored (R30, S7). -/
def Obligations.StoreThenLoadReturnsValue : Prop :=
  ∀ (r r' : Reg) (b : Dest) (b' : Operand) (s t : State) (a : Addr),
    s.destAddr b = some a → exec (.st r b) s = .next t → t.operandAddr b' = some a →
      ∃ u, exec (.ld r' b') t = .next u ∧ u.reg r' = s.reg r

/-- A store into the word of the very next instruction is what the next step fetches (R38, R157). -/
def Obligations.NextFetchSeesStore : Prop :=
  ∀ (r : Reg) (b : Dest) (s : State), s.destAddr b = some (programAddr (s.pc + 2)) →
    ∃ t, exec (.st r b) s = .next t ∧ t.pc = s.pc + 2 ∧ t.firstWord = s.reg r

/-! ### ADD, ADC, SUB, SBC, CMP -/

/-- `AddCore` is exact (R90): the result is the sum modulo 256, the carry out says the unsigned sum
passed 255, the overflow says the signed sum does not fit. -/
def Obligations.AdderIsExact : Prop :=
  ∀ (a x : Word) (cin : Bool),
    (addCore a x cin).res.toNat = (a.toNat + x.toNat + cin.toNat) % 256 ∧
    ((addCore a x cin).carry = true ↔ a.toNat + x.toNat + cin.toNat > 255) ∧
    ((addCore a x cin).overflow = true ↔ ¬ FitsSigned (a.toInt + x.toInt + cin.toNat)) ∧
    ((addCore a x cin).overflow = true ↔
      a.getLsbD 7 = x.getLsbD 7 ∧ (addCore a x cin).res.getLsbD 7 ≠ a.getLsbD 7)

/-- `SubCore` is the adder on `~B` with the borrow the complement of the carry out, and equals its closed
forms (R93): the difference modulo 256, the borrow of unbounded integers, signed overflow. -/
def Obligations.SubtractionIsExact : Prop :=
  ∀ (a b : Word) (bin : Bool),
    subCore a b bin = ⟨(addCore a (~~~b) (!bin)).res, !(addCore a (~~~b) (!bin)).carry,
      (addCore a (~~~b) (!bin)).overflow⟩ ∧
    ((subCore a b bin).res.toNat : Int) = ((a.toNat : Int) - b.toNat - bin.toNat) % 256 ∧
    ((subCore a b bin).carry = true ↔ a.toNat < b.toNat + bin.toNat) ∧
    ((subCore a b bin).overflow = true ↔ ¬ FitsSigned (a.toInt - b.toInt - bin.toNat)) ∧
    ((subCore a b bin).overflow = true ↔
      a.getLsbD 7 ≠ b.getLsbD 7 ∧ (subCore a b bin).res.getLsbD 7 ≠ a.getLsbD 7)

/-- `ADD r, b`: the sum and all four flags; the carry before the step plays no part; no other register
and no memory word changes (R91). -/
def Obligations.AddWritesSumAndFlags : Prop :=
  ∀ (r : Reg) (b : Operand) (s : State), ∃ t, exec (.add r b) s = .next t ∧
    t.reg r = s.reg r + s.operandValue b ∧
    (t.flags.c = true ↔ (s.reg r).toNat + (s.operandValue b).toNat > 255) ∧
    (t.flags.v = true ↔ ¬ FitsSigned ((s.reg r).toInt + (s.operandValue b).toInt)) ∧
    ResultFlags (t.reg r) t.flags ∧ SameRegsBut r s t ∧ Advanced b.length s t ∧
    SameMemory s t ∧ SamePorts s t

/-- `ADC r, b`: the sum with the carry before the step, and all four flags (R92). -/
def Obligations.AdcWritesSumAndFlags : Prop :=
  ∀ (r : Reg) (b : Operand) (s : State), ∃ t, exec (.adc r b) s = .next t ∧
    t.reg r = s.reg r + s.operandValue b + (BitVec.ofBool s.flags.c).setWidth 8 ∧
    (t.flags.c = true ↔
      (s.reg r).toNat + (s.operandValue b).toNat + s.flags.c.toNat > 255) ∧
    (t.flags.v = true ↔
      ¬ FitsSigned ((s.reg r).toInt + (s.operandValue b).toInt + s.flags.c.toNat)) ∧
    ResultFlags (t.reg r) t.flags ∧ SameRegsBut r s t ∧ Advanced b.length s t ∧
    SameMemory s t ∧ SamePorts s t

/-- `SUB r, b`: the difference and all four flags, `C` the borrow; the carry before the step plays no
part (R94). -/
def Obligations.SubWritesDifferenceAndFlags : Prop :=
  ∀ (r : Reg) (b : Operand) (s : State), ∃ t, exec (.sub r b) s = .next t ∧
    t.reg r = s.reg r - s.operandValue b ∧
    (t.flags.c = true ↔ (s.reg r).toNat < (s.operandValue b).toNat) ∧
    (t.flags.v = true ↔ ¬ FitsSigned ((s.reg r).toInt - (s.operandValue b).toInt)) ∧
    ResultFlags (t.reg r) t.flags ∧ SameRegsBut r s t ∧ Advanced b.length s t ∧
    SameMemory s t ∧ SamePorts s t

/-- `SBC r, b`: the difference with the borrow before the step, and all four flags (R95). -/
def Obligations.SbcWritesDifferenceAndFlags : Prop :=
  ∀ (r : Reg) (b : Operand) (s : State), ∃ t, exec (.sbc r b) s = .next t ∧
    t.reg r = s.reg r - s.operandValue b - (BitVec.ofBool s.flags.c).setWidth 8 ∧
    (t.flags.c = true ↔ (s.reg r).toNat < (s.operandValue b).toNat + s.flags.c.toNat) ∧
    (t.flags.v = true ↔
      ¬ FitsSigned ((s.reg r).toInt - (s.operandValue b).toInt - s.flags.c.toNat)) ∧
    ResultFlags (t.reg r) t.flags ∧ SameRegsBut r s t ∧ Advanced b.length s t ∧
    SameMemory s t ∧ SamePorts s t

/-- `CMP r, b`: what the flags say of the two operands, read unsigned and signed; no register and no
memory word changes (R96). -/
def Obligations.CmpComparesOperands : Prop :=
  ∀ (r : Reg) (b : Operand) (s : State), ∃ t, exec (.cmp r b) s = .next t ∧
    (t.flags.z = true ↔ s.reg r = s.operandValue b) ∧
    (t.flags.c = true ↔ (s.reg r).toNat < (s.operandValue b).toNat) ∧
    (t.flags.v = true ↔ ¬ FitsSigned ((s.reg r).toInt - (s.operandValue b).toInt)) ∧
    t.flags.n = (s.reg r - s.operandValue b).getLsbD 7 ∧
    ((t.flags.v ^^ t.flags.n) = true ↔ (s.reg r).toInt < (s.operandValue b).toInt) ∧
    SameRegs s t ∧ Advanced b.length s t ∧ SameMemory s t ∧ SamePorts s t

/-- Chains over two words, provided `C` is kept between them (R97): `ADD` low, `ADC` high is a 16-bit
addition with the carry of the whole in `C`; `SUB` low, `SBC` high is a 16-bit subtraction with the
borrow of the whole in `C`, no inversion of `C` between them. -/
def Obligations.CarryChainsAre16Bit : Prop :=
  ∀ (r r' : Reg) (b b' : Operand) (s u : State),
    let x : Int := (s.reg r).toNat + 256 * (u.reg r').toNat
    let y : Int := (s.operandValue b).toNat + 256 * (u.operandValue b').toNat
    (∀ t v, exec (.add r b) s = .next t → u.flags.c = t.flags.c → exec (.adc r' b') u = .next v →
      ((t.reg r).toNat + 256 * (v.reg r').toNat : Int) = (x + y) % 65536 ∧
      (v.flags.c = true ↔ x + y > 65535)) ∧
    (∀ t v, exec (.sub r b) s = .next t → u.flags.c = t.flags.c → exec (.sbc r' b') u = .next v →
      ((t.reg r).toNat + 256 * (v.reg r').toNat : Int) = (x - y) % 65536 ∧
      (v.flags.c = true ↔ x < y))

/-! ### AND, OR, EOR -/

/-- `AND`, `OR`, `EOR`: the bitwise result to `r`, `C` and `V` cleared, `Z` and `N` from the result, no
other register and no memory word changed (R98 to R101). -/
def Obligations.LogicWritesResultAndFlags : Prop :=
  ∀ (r : Reg) (b : Operand) (s : State),
    let done (t : State) (res : Word) : Prop :=
      t.reg r = res ∧ t.flags.c = false ∧ t.flags.v = false ∧ ResultFlags res t.flags ∧
      SameRegsBut r s t ∧ Advanced b.length s t ∧ SameMemory s t ∧ SamePorts s t
    (∃ t, exec (.and r b) s = .next t ∧ done t (s.reg r &&& s.operandValue b)) ∧
    (∃ t, exec (.or r b) s = .next t ∧ done t (s.reg r ||| s.operandValue b)) ∧
    (∃ t, exec (.eor r b) s = .next t ∧ done t (s.reg r ^^^ s.operandValue b))

/-! ### Shift and rotate -/

/-- `SRA r`: the signed value halved towards minus infinity, `C` the bit shifted out, `V` unchanged, no
other register and no memory word changed (R103). -/
def Obligations.SraHalvesSigned : Prop :=
  ∀ (r : Reg) (s : State), ∃ t, exec (.sra r) s = .next t ∧
    (t.reg r).toInt = (s.reg r).toInt / 2 ∧ t.flags.c = (s.reg r).getLsbD 0 ∧
    t.flags.v = s.flags.v ∧ ResultFlags (t.reg r) t.flags ∧ t.flags.n = (s.reg r).getLsbD 7 ∧
    SameRegsBut r s t ∧ Advanced 1 s t ∧ SameMemory s t ∧ SamePorts s t

/-- `RLL r`: the nine bits of `C` and the register move one place, the old `C` entering bit 0 and bit 7
leaving into `C`; `V` unchanged, no other register and no memory word changed (R104). -/
def Obligations.RllRotatesThroughCarry : Prop :=
  ∀ (r : Reg) (s : State), ∃ t, exec (.rll r) s = .next t ∧
    t.reg r = (s.reg r <<< 1) ||| (BitVec.ofBool s.flags.c).setWidth 8 ∧
    t.flags.c = (s.reg r).getLsbD 7 ∧
    256 * t.flags.c.toNat + (t.reg r).toNat = 2 * (s.reg r).toNat + s.flags.c.toNat ∧
    t.flags.v = s.flags.v ∧ ResultFlags (t.reg r) t.flags ∧ t.flags.n = (s.reg r).getLsbD 6 ∧
    SameRegsBut r s t ∧ Advanced 1 s t ∧ SameMemory s t ∧ SamePorts s t

/-- Nine `RLL` on one register restore it and `C`, from every start; eight do only from 0x00 with
`C` = 0 and from 0xFF with `C` = 1 (R112). -/
def Obligations.NineRotationsRestore : Prop :=
  ∀ (r : Reg) (s0 s1 s2 s3 s4 s5 s6 s7 s8 s9 : State),
    exec (.rll r) s0 = .next s1 → exec (.rll r) s1 = .next s2 → exec (.rll r) s2 = .next s3 →
    exec (.rll r) s3 = .next s4 → exec (.rll r) s4 = .next s5 → exec (.rll r) s5 = .next s6 →
    exec (.rll r) s6 = .next s7 → exec (.rll r) s7 = .next s8 → exec (.rll r) s8 = .next s9 →
      (s9.reg r = s0.reg r ∧ s9.flags.c = s0.flags.c) ∧
      ((s8.reg r = s0.reg r ∧ s8.flags.c = s0.flags.c) ↔
        (s0.reg r = 0x00 ∧ s0.flags.c = false ∨ s0.reg r = 0xFF ∧ s0.flags.c = true))

/-- The six shift/rotate instructions that are not implemented take `Halt(UnsupportedSubMode)`: `pc`
one word further, nothing else changed (R105 to R111, R137). -/
def Obligations.UnsupportedShiftsHalt : Prop :=
  ∀ (r : Reg) (s : State) (i : Instr),
    i ∈ [Instr.sla r, .srl r, .sll r, .rra r, .rla r, .rrl r] →
      ∃ t, exec i s = .next t ∧ Halted .unsupportedSubMode s t ∧ Undisturbed s t

/-! ### Branches, JAL, JR -/

/-- The branches on single flags, and `BA`: taken exactly as their predicates say, nothing changed but
`pc` (R113 to R117, R119, R122 to R125, R127). -/
def Obligations.FlagBranchesFollowPredicates : Prop :=
  ∀ (d : Word) (s : State),
    (∃ t, exec (.ba d) s = .next t ∧ Branched True d s t ∧ Undisturbed s t) ∧
    (∃ t, exec (.bnz d) s = .next t ∧ Branched (s.flags.z = false) d s t ∧ Undisturbed s t) ∧
    (∃ t, exec (.bzp d) s = .next t ∧ Branched (s.flags.n = false) d s t ∧ Undisturbed s t) ∧
    (∃ t, exec (.bp d) s = .next t ∧
      Branched (s.flags.n = false ∧ s.flags.z = false) d s t ∧ Undisturbed s t) ∧
    (∃ t, exec (.bnc d) s = .next t ∧ Branched (s.flags.c = false) d s t ∧ Undisturbed s t) ∧
    (∃ t, exec (.bvf d) s = .next t ∧ Branched (s.flags.v = true) d s t ∧ Undisturbed s t) ∧
    (∃ t, exec (.bz d) s = .next t ∧ Branched (s.flags.z = true) d s t ∧ Undisturbed s t) ∧
    (∃ t, exec (.bn d) s = .next t ∧ Branched (s.flags.n = true) d s t ∧ Undisturbed s t) ∧
    (∃ t, exec (.bzn d) s = .next t ∧
      Branched (s.flags.n = true ∨ s.flags.z = true) d s t ∧ Undisturbed s t) ∧
    (∃ t, exec (.bc d) s = .next t ∧ Branched (s.flags.c = true) d s t ∧ Undisturbed s t)

/-- The four signed branches: taken exactly as their predicates on `V`, `N` and `Z` say, nothing changed
but `pc` (R113, R120, R121, R128, R129). -/
def Obligations.SignedBranchesFollowPredicates : Prop :=
  ∀ (d : Word) (s : State),
    (∃ t, exec (.bge d) s = .next t ∧
      Branched ((s.flags.v ^^ s.flags.n) = false) d s t ∧ Undisturbed s t) ∧
    (∃ t, exec (.bgt d) s = .next t ∧
      Branched ((s.flags.v ^^ s.flags.n) = false ∧ s.flags.z = false) d s t ∧ Undisturbed s t) ∧
    (∃ t, exec (.blt d) s = .next t ∧
      Branched ((s.flags.v ^^ s.flags.n) = true) d s t ∧ Undisturbed s t) ∧
    (∃ t, exec (.ble d) s = .next t ∧
      Branched ((s.flags.v ^^ s.flags.n) = true ∨ s.flags.z = true) d s t ∧ Undisturbed s t)

/-- `BNI` and `BNO` are never taken: two-word no-ops, the I/O conditions not being wired (R118, R126;
log entry 7). -/
def Obligations.IoBranchesNeverTaken : Prop :=
  ∀ (d : Word) (s : State),
    (∃ t, exec (.bni d) s = .next t ∧ Advanced 2 s t ∧ Undisturbed s t) ∧
    (∃ t, exec (.bno d) s = .next t ∧ Advanced 2 s t ∧ Undisturbed s t)

/-- After a compare, `BC` and `BZ` branch on the unsigned order and on equality, and `BLT`, `BLE`,
`BGE`, `BGT` on the signed order (R96, R120, R121, R127 to R129). -/
def Obligations.CompareThenBranch : Prop :=
  ∀ (r : Reg) (b : Operand) (d : Word) (s t : State), exec (.cmp r b) s = .next t →
    let x := s.reg r
    let y := s.operandValue b
    (∃ u, exec (.bc d) t = .next u ∧ Branched (x.toNat < y.toNat) d t u) ∧
    (∃ u, exec (.bz d) t = .next u ∧ Branched (x = y) d t u) ∧
    (∃ u, exec (.blt d) t = .next u ∧ Branched (x.toInt < y.toInt) d t u) ∧
    (∃ u, exec (.ble d) t = .next u ∧ Branched (x.toInt ≤ y.toInt) d t u) ∧
    (∃ u, exec (.bge d) t = .next u ∧ Branched (x.toInt ≥ y.toInt) d t u) ∧
    (∃ u, exec (.bgt d) t = .next u ∧ Branched (x.toInt > y.toInt) d t u)

/-- With the parameter `IO_COND_WIRED` true `BNI` and `BNO` are taken as the buffer flags say, without it
never, and nothing changes but `pc`; no other condition depends on the parameter (R118, R126, D13; the
wired case is not the default, log entry 7). -/
def Obligations.WiredConditionsReadBufferFlags : Prop :=
  (∀ (k : MachineConfig) (d : Word) (s : State),
    (∃ t, execWith k (.bni d) s = .next t ∧
      Branched (k.ioCondWired = true ∧ s.ibuf.flag = false) d s t ∧ Undisturbed s t) ∧
    (∃ t, execWith k (.bno d) s = .next t ∧
      Branched (k.ioCondWired = true ∧ s.obuf.flag = true) d s t ∧ Undisturbed s t)) ∧
  ∀ (s : State) (c : Cond),
    s.condHolds true .noInput = !s.ibuf.flag ∧ s.condHolds true .noOutput = s.obuf.flag ∧
    s.condHolds false .noInput = false ∧ s.condHolds false .noOutput = false ∧
    (c ≠ .noInput → c ≠ .noOutput → s.condHolds true c = s.condHolds false c)

/-- `JAL d`: the address after the call to `acc`, `pc` to the target; `ix`, flags, memory and buffers
unchanged (R130). -/
def Obligations.JalLinksAndJumps : Prop :=
  ∀ (d : Word) (s : State), ∃ t, exec (.jal d) s = .next t ∧
    t.acc = s.pc + 2 ∧ t.pc = d ∧ t.outcome = some .continues ∧
    t.ix = s.ix ∧ t.flags = s.flags ∧ SameMemory s t ∧ SamePorts s t

/-- `JR`: `pc` to the value of `acc`, never of `ix`; nothing else changes (R131). -/
def Obligations.JrJumpsThroughAccumulator : Prop :=
  ∀ s : State, ∃ t, exec .jr s = .next t ∧
    t.pc = s.acc ∧ t.outcome = some .continues ∧ Undisturbed s t

/-- A `JAL` whose target holds a `JR` returns, in two steps, to the word after the call, with that
address in `acc` (R130, R131; property 8 of the test vectors). -/
def Obligations.JalThenJrReturns : Prop :=
  ∀ (d : Word) (s : State), fetchInstr s = some (.jal d) →
    s.readWord (programAddr d) = encodeFirst defaultEncoding .jr →
      ∃ t u, step s = .next t ∧ step t = .next u ∧ u.pc = s.pc + 2 ∧ u.acc = s.pc + 2 ∧
        u.ix = s.ix ∧ u.flags = s.flags ∧ SameMemory s u
end

