-- ==== Sys2Proof/Laws/Decode.lean ====
section
/-! SUPPORT. What the decoder and the encoder answer, by the verdict on the first word and by the
second word. -/

namespace Sys2Proof

theorem decode_of_oneWord {p : EncodingParams} {w1 : Word} {i : Instr}
    (h : decodeFirst p w1 = .oneWord i) (rest : List Word) :
    decode p (w1 :: rest) = .ok (i, rest) := by
  simp [decode, h]

theorem decode_of_twoWord {p : EncodingParams} {w1 : Word} {f : Word → Instr}
    (h : decodeFirst p w1 = .twoWord f) (w2 : Word) (rest : List Word) :
    decode p (w1 :: w2 :: rest) = .ok (f w2, rest) := by
  simp [decode, h]

theorem decode_of_unknown {p : EncodingParams} {w1 : Word} (h : decodeFirst p w1 = .unknown)
    (rest : List Word) : decode p (w1 :: rest) = .error .unknownInstruction := by
  simp [decode, h]

theorem encode_of_noSecond {p : EncodingParams} {i : Instr} (h : encodeSecond i = none) :
    encode p i = [encodeFirst p i] := by
  simp [encode, h]

theorem encode_of_second {p : EncodingParams} {i : Instr} {w2 : Word} (h : encodeSecond i = some w2) :
    encode p i = [encodeFirst p i, w2] := by
  simp [encode, h]

end Sys2Proof
end

