-- ==== Sys2Proof/Laws/State.lean ====
section
/-! SUPPORT. One lemma per field per update of the state, so that no later proof unfolds a record
update. -/

namespace Sys2Proof.Machine

/-! ### `State.setFlags` -/

@[simp] theorem State.setFlags_pc (s : State) (f : Flags) : (s.setFlags f).pc = s.pc := rfl
@[simp] theorem State.setFlags_acc (s : State) (f : Flags) : (s.setFlags f).acc = s.acc := rfl
@[simp] theorem State.setFlags_ix (s : State) (f : Flags) : (s.setFlags f).ix = s.ix := rfl
@[simp] theorem State.setFlags_flags (s : State) (f : Flags) : (s.setFlags f).flags = f := rfl
@[simp] theorem State.setFlags_mem (s : State) (f : Flags) : (s.setFlags f).mem = s.mem := rfl
@[simp] theorem State.setFlags_obuf (s : State) (f : Flags) : (s.setFlags f).obuf = s.obuf := rfl
@[simp] theorem State.setFlags_ibuf (s : State) (f : Flags) : (s.setFlags f).ibuf = s.ibuf := rfl
@[simp] theorem State.setFlags_outcome (s : State) (f : Flags) : (s.setFlags f).outcome = s.outcome := rfl
@[simp] theorem State.setFlags_draws (s : State) (f : Flags) : (s.setFlags f).draws = s.draws := rfl

/-! ### `State.setCarry` -/

@[simp] theorem State.setCarry_pc (s : State) (c : Bool) : (s.setCarry c).pc = s.pc := rfl
@[simp] theorem State.setCarry_acc (s : State) (c : Bool) : (s.setCarry c).acc = s.acc := rfl
@[simp] theorem State.setCarry_ix (s : State) (c : Bool) : (s.setCarry c).ix = s.ix := rfl
@[simp] theorem State.setCarry_flags (s : State) (c : Bool) : (s.setCarry c).flags = { s.flags with c := c } := rfl
@[simp] theorem State.setCarry_mem (s : State) (c : Bool) : (s.setCarry c).mem = s.mem := rfl
@[simp] theorem State.setCarry_obuf (s : State) (c : Bool) : (s.setCarry c).obuf = s.obuf := rfl
@[simp] theorem State.setCarry_ibuf (s : State) (c : Bool) : (s.setCarry c).ibuf = s.ibuf := rfl
@[simp] theorem State.setCarry_outcome (s : State) (c : Bool) : (s.setCarry c).outcome = s.outcome := rfl
@[simp] theorem State.setCarry_draws (s : State) (c : Bool) : (s.setCarry c).draws = s.draws := rfl

/-! ### `State.writeWord` -/

@[simp] theorem State.writeWord_pc (s : State) (a : Addr) (v : Word) : (s.writeWord a v).pc = s.pc := rfl
@[simp] theorem State.writeWord_acc (s : State) (a : Addr) (v : Word) : (s.writeWord a v).acc = s.acc := rfl
@[simp] theorem State.writeWord_ix (s : State) (a : Addr) (v : Word) : (s.writeWord a v).ix = s.ix := rfl
@[simp] theorem State.writeWord_flags (s : State) (a : Addr) (v : Word) : (s.writeWord a v).flags = s.flags := rfl
@[simp] theorem State.writeWord_mem (s : State) (a : Addr) (v : Word) : (s.writeWord a v).mem = s.mem.put a.toNat v := rfl
@[simp] theorem State.writeWord_obuf (s : State) (a : Addr) (v : Word) : (s.writeWord a v).obuf = s.obuf := rfl
@[simp] theorem State.writeWord_ibuf (s : State) (a : Addr) (v : Word) : (s.writeWord a v).ibuf = s.ibuf := rfl
@[simp] theorem State.writeWord_outcome (s : State) (a : Addr) (v : Word) : (s.writeWord a v).outcome = s.outcome := rfl
@[simp] theorem State.writeWord_draws (s : State) (a : Addr) (v : Word) : (s.writeWord a v).draws = s.draws := rfl

/-! ### `State.latchOutput` -/

@[simp] theorem State.latchOutput_pc (s : State) : (s.latchOutput).pc = s.pc := rfl
@[simp] theorem State.latchOutput_acc (s : State) : (s.latchOutput).acc = s.acc := rfl
@[simp] theorem State.latchOutput_ix (s : State) : (s.latchOutput).ix = s.ix := rfl
@[simp] theorem State.latchOutput_flags (s : State) : (s.latchOutput).flags = s.flags := rfl
@[simp] theorem State.latchOutput_mem (s : State) : (s.latchOutput).mem = s.mem := rfl
@[simp] theorem State.latchOutput_obuf (s : State) : (s.latchOutput).obuf = ⟨true, s.acc⟩ := rfl
@[simp] theorem State.latchOutput_ibuf (s : State) : (s.latchOutput).ibuf = s.ibuf := rfl
@[simp] theorem State.latchOutput_outcome (s : State) : (s.latchOutput).outcome = s.outcome := rfl
@[simp] theorem State.latchOutput_draws (s : State) : (s.latchOutput).draws = s.draws := rfl

/-! ### `State.finish` -/

@[simp] theorem State.finish_pc (s : State) (len : Nat) : (s.finish len).pc = s.pc + BitVec.ofNat 8 len := rfl
@[simp] theorem State.finish_acc (s : State) (len : Nat) : (s.finish len).acc = s.acc := rfl
@[simp] theorem State.finish_ix (s : State) (len : Nat) : (s.finish len).ix = s.ix := rfl
@[simp] theorem State.finish_flags (s : State) (len : Nat) : (s.finish len).flags = s.flags := rfl
@[simp] theorem State.finish_mem (s : State) (len : Nat) : (s.finish len).mem = s.mem := rfl
@[simp] theorem State.finish_obuf (s : State) (len : Nat) : (s.finish len).obuf = s.obuf := rfl
@[simp] theorem State.finish_ibuf (s : State) (len : Nat) : (s.finish len).ibuf = s.ibuf := rfl
@[simp] theorem State.finish_outcome (s : State) (len : Nat) : (s.finish len).outcome = some .continues := rfl
@[simp] theorem State.finish_draws (s : State) (len : Nat) : (s.finish len).draws = s.draws := rfl

/-! ### `State.jumpTo` -/

@[simp] theorem State.jumpTo_pc (s : State) (d : Word) : (s.jumpTo d).pc = d := rfl
@[simp] theorem State.jumpTo_acc (s : State) (d : Word) : (s.jumpTo d).acc = s.acc := rfl
@[simp] theorem State.jumpTo_ix (s : State) (d : Word) : (s.jumpTo d).ix = s.ix := rfl
@[simp] theorem State.jumpTo_flags (s : State) (d : Word) : (s.jumpTo d).flags = s.flags := rfl
@[simp] theorem State.jumpTo_mem (s : State) (d : Word) : (s.jumpTo d).mem = s.mem := rfl
@[simp] theorem State.jumpTo_obuf (s : State) (d : Word) : (s.jumpTo d).obuf = s.obuf := rfl
@[simp] theorem State.jumpTo_ibuf (s : State) (d : Word) : (s.jumpTo d).ibuf = s.ibuf := rfl
@[simp] theorem State.jumpTo_outcome (s : State) (d : Word) : (s.jumpTo d).outcome = some .continues := rfl
@[simp] theorem State.jumpTo_draws (s : State) (d : Word) : (s.jumpTo d).draws = s.draws := rfl

/-! ### `State.takeHalt` -/

@[simp] theorem State.takeHalt_pc (s : State) (h : HaltReason) : (s.takeHalt h).pc = s.pc + 1 := rfl
@[simp] theorem State.takeHalt_acc (s : State) (h : HaltReason) : (s.takeHalt h).acc = s.acc := rfl
@[simp] theorem State.takeHalt_ix (s : State) (h : HaltReason) : (s.takeHalt h).ix = s.ix := rfl
@[simp] theorem State.takeHalt_flags (s : State) (h : HaltReason) : (s.takeHalt h).flags = s.flags := rfl
@[simp] theorem State.takeHalt_mem (s : State) (h : HaltReason) : (s.takeHalt h).mem = s.mem := rfl
@[simp] theorem State.takeHalt_obuf (s : State) (h : HaltReason) : (s.takeHalt h).obuf = s.obuf := rfl
@[simp] theorem State.takeHalt_ibuf (s : State) (h : HaltReason) : (s.takeHalt h).ibuf = s.ibuf := rfl
@[simp] theorem State.takeHalt_outcome (s : State) (h : HaltReason) : (s.takeHalt h).outcome = some (.halt h) := rfl
@[simp] theorem State.takeHalt_draws (s : State) (h : HaltReason) : (s.takeHalt h).draws = s.draws := rfl

/-! ### `State.setReg` and `State.reg` -/

@[simp] theorem State.setReg_pc (s : State) (r : Reg) (v : Word) : (s.setReg r v).pc = s.pc := by
  cases r <;> rfl
@[simp] theorem State.setReg_flags (s : State) (r : Reg) (v : Word) : (s.setReg r v).flags = s.flags := by
  cases r <;> rfl
@[simp] theorem State.setReg_mem (s : State) (r : Reg) (v : Word) : (s.setReg r v).mem = s.mem := by
  cases r <;> rfl
@[simp] theorem State.setReg_obuf (s : State) (r : Reg) (v : Word) : (s.setReg r v).obuf = s.obuf := by
  cases r <;> rfl
@[simp] theorem State.setReg_ibuf (s : State) (r : Reg) (v : Word) : (s.setReg r v).ibuf = s.ibuf := by
  cases r <;> rfl
@[simp] theorem State.setReg_outcome (s : State) (r : Reg) (v : Word) : (s.setReg r v).outcome = s.outcome := by
  cases r <;> rfl
@[simp] theorem State.setReg_draws (s : State) (r : Reg) (v : Word) : (s.setReg r v).draws = s.draws := by
  cases r <;> rfl
@[simp] theorem State.setReg_acc_acc (s : State) (v : Word) : (s.setReg .acc v).acc = v := rfl
@[simp] theorem State.setReg_acc_ix (s : State) (v : Word) : (s.setReg .acc v).ix = s.ix := rfl
@[simp] theorem State.setReg_ix_acc (s : State) (v : Word) : (s.setReg .ix v).acc = s.acc := rfl
@[simp] theorem State.setReg_ix_ix (s : State) (v : Word) : (s.setReg .ix v).ix = v := rfl

@[simp] theorem State.reg_acc (s : State) : s.reg .acc = s.acc := rfl
@[simp] theorem State.reg_ix (s : State) : s.reg .ix = s.ix := rfl

@[simp] theorem State.reg_setReg_same (s : State) (r : Reg) (v : Word) : (s.setReg r v).reg r = v := by
  cases r <;> rfl

theorem State.reg_setReg_other (s : State) (r r' : Reg) (v : Word) (h : r' ≠ r) :
    (s.setReg r v).reg r' = s.reg r' := by
  cases r <;> cases r' <;> first | rfl | exact absurd rfl h

/-! ### `State.reg` after the updates that write no register -/

@[simp] theorem State.reg_setFlags (s : State) (f : Flags) (r : Reg) : (s.setFlags f).reg r = s.reg r := by
  cases r <;> rfl
@[simp] theorem State.reg_setCarry (s : State) (c : Bool) (r : Reg) : (s.setCarry c).reg r = s.reg r := by
  cases r <;> rfl
@[simp] theorem State.reg_writeWord (s : State) (a : Addr) (v : Word) (r : Reg) : (s.writeWord a v).reg r = s.reg r := by
  cases r <;> rfl
@[simp] theorem State.reg_latchOutput (s : State) (r : Reg) : (s.latchOutput).reg r = s.reg r := by
  cases r <;> rfl
@[simp] theorem State.reg_finish (s : State) (len : Nat) (r : Reg) : (s.finish len).reg r = s.reg r := by
  cases r <;> rfl
@[simp] theorem State.reg_jumpTo (s : State) (d : Word) (r : Reg) : (s.jumpTo d).reg r = s.reg r := by
  cases r <;> rfl
@[simp] theorem State.reg_takeHalt (s : State) (h : HaltReason) (r : Reg) : (s.takeHalt h).reg r = s.reg r := by
  cases r <;> rfl

/-! ### `State.readWord` after the updates that write no memory -/

@[simp] theorem State.readWord_setFlags (s : State) (f : Flags) (x : Addr) : (s.setFlags f).readWord x = s.readWord x := rfl
@[simp] theorem State.readWord_setCarry (s : State) (c : Bool) (x : Addr) : (s.setCarry c).readWord x = s.readWord x := rfl
@[simp] theorem State.readWord_latchOutput (s : State) (x : Addr) : (s.latchOutput).readWord x = s.readWord x := rfl
@[simp] theorem State.readWord_finish (s : State) (len : Nat) (x : Addr) : (s.finish len).readWord x = s.readWord x := rfl
@[simp] theorem State.readWord_jumpTo (s : State) (d : Word) (x : Addr) : (s.jumpTo d).readWord x = s.readWord x := rfl
@[simp] theorem State.readWord_takeHalt (s : State) (h : HaltReason) (x : Addr) : (s.takeHalt h).readWord x = s.readWord x := rfl
@[simp] theorem State.readWord_setReg (s : State) (r : Reg) (v : Word) (x : Addr) :
    (s.setReg r v).readWord x = s.readWord x := by
  cases r <;> rfl

/-! ### `State.finishAlu` -/

@[simp] theorem State.finishAlu_pc (s : State) (r : Reg) (len : Nat) (x : AluResult) :
    (s.finishAlu r len x).pc = s.pc + BitVec.ofNat 8 len := by
  cases r <;> rfl
@[simp] theorem State.finishAlu_flags (s : State) (r : Reg) (len : Nat) (x : AluResult) :
    (s.finishAlu r len x).flags = x.flags := by
  cases r <;> rfl
@[simp] theorem State.finishAlu_mem (s : State) (r : Reg) (len : Nat) (x : AluResult) :
    (s.finishAlu r len x).mem = s.mem := by
  cases r <;> rfl
@[simp] theorem State.finishAlu_obuf (s : State) (r : Reg) (len : Nat) (x : AluResult) :
    (s.finishAlu r len x).obuf = s.obuf := by
  cases r <;> rfl
@[simp] theorem State.finishAlu_ibuf (s : State) (r : Reg) (len : Nat) (x : AluResult) :
    (s.finishAlu r len x).ibuf = s.ibuf := by
  cases r <;> rfl
@[simp] theorem State.finishAlu_outcome (s : State) (r : Reg) (len : Nat) (x : AluResult) :
    (s.finishAlu r len x).outcome = some .continues := by
  cases r <;> rfl
@[simp] theorem State.finishAlu_draws (s : State) (r : Reg) (len : Nat) (x : AluResult) :
    (s.finishAlu r len x).draws = s.draws := by
  cases r <;> rfl
@[simp] theorem State.finishAlu_reg (s : State) (r : Reg) (len : Nat) (x : AluResult) :
    (s.finishAlu r len x).reg r = x.res := by
  cases r <;> rfl

theorem State.finishAlu_reg_other (s : State) (r r' : Reg) (len : Nat) (x : AluResult) (h : r' ≠ r) :
    (s.finishAlu r len x).reg r' = s.reg r' := by
  cases r <;> cases r' <;> first | rfl | exact absurd rfl h

@[simp] theorem State.finishAlu_readWord (s : State) (r : Reg) (len : Nat) (x : AluResult) (a : Addr) :
    (s.finishAlu r len x).readWord a = s.readWord a := by
  cases r <;> rfl

end Sys2Proof.Machine
end

