-- ==== Sys2Proof/Laws/Memory.lean ====
section
/-! SUPPORT. The memory list: what a write leaves at every address, that every memory operation keeps
the canonical form, and that two canonical lists recording the same words are equal. -/

namespace Sys2Proof.Machine

/-- A word just recorded is the word recorded. -/
@[simp] theorem Memory.cell_put_same (m : Memory) (a : Nat) (v : Word) :
    (Memory.put m a v).cell a = some v := by
  induction m with
  | nil => simp [Memory.put, Memory.cell]
  | cons e rest ih =>
    obtain ⟨b, w⟩ := e
    unfold Memory.put
    split
    · simp [Memory.cell]
    · split
      · simp [Memory.cell]
      · simp [Memory.cell, *]

/-- Recording a word at one address leaves every other address as it was. -/
theorem Memory.cell_put_other (m : Memory) (a b : Nat) (v : Word) (h : b ≠ a) :
    (Memory.put m a v).cell b = m.cell b := by
  induction m with
  | nil => simp [Memory.put, Memory.cell, h]
  | cons e rest ih =>
    obtain ⟨c, w⟩ := e
    unfold Memory.put
    split
    · simp [Memory.cell, h]
    · split
      · next hac => subst hac; simp [Memory.cell, h]
      · simp [Memory.cell, ih]

/-- A write keeps the canonical form from any lower bound on. -/
theorem Memory.risesFrom_put (m : Memory) (lo a : Nat) (v : Word) (h : m.risesFrom lo = true)
    (hlo : lo ≤ a) (ha : a < 512) : (Memory.put m a v).risesFrom lo = true := by
  induction m generalizing lo with
  | nil => simp [Memory.put, Memory.risesFrom, hlo, ha]
  | cons e rest ih =>
    obtain ⟨b, w⟩ := e
    simp only [Memory.risesFrom, Bool.and_eq_true, decide_eq_true_eq] at h
    obtain ⟨⟨hb, hb'⟩, hrest⟩ := h
    unfold Memory.put
    split
    · next hab => simp [Memory.risesFrom, hlo, ha, hb', hrest]; omega
    · split
      · next hab => subst hab; simp [Memory.risesFrom, hlo, ha, hrest]
      · simp [Memory.risesFrom, hb, hb', ih (b + 1) hrest (by omega)]

/-- A write to a 9-bit address keeps the canonical form. -/
theorem Memory.wf_put (m : Memory) (a : Addr) (v : Word) (h : m.wf = true) :
    (Memory.put m a.toNat v).wf = true :=
  Memory.risesFrom_put m 0 a.toNat v h (Nat.zero_le _) a.isLt

/-- The empty list is canonical. -/
theorem Memory.wf_nil : Memory.wf [] = true := rfl

/-- A canonical list records nothing below its lower bound. -/
theorem Memory.cell_none_of_lt (m : Memory) (lo a : Nat) (h : m.risesFrom lo = true) (ha : a < lo) :
    m.cell a = none := by
  induction m generalizing lo with
  | nil => rfl
  | cons e rest ih =>
    obtain ⟨b, w⟩ := e
    simp only [Memory.risesFrom, Bool.and_eq_true, decide_eq_true_eq] at h
    obtain ⟨⟨hb, _⟩, hrest⟩ := h
    have hab : a ≠ b := by omega
    simp [Memory.cell, hab, ih (b + 1) hrest (by omega)]

/-- Two canonical lists that record the same words are the same list. -/
theorem Memory.ext_of_rises (m m' : Memory) (lo : Nat) (h : m.risesFrom lo = true)
    (h' : m'.risesFrom lo = true) (same : ∀ a, m.cell a = m'.cell a) : m = m' := by
  induction m generalizing m' lo with
  | nil =>
    cases m' with
    | nil => rfl
    | cons e rest => simpa [Memory.cell] using same e.1
  | cons e rest ih =>
    cases m' with
    | nil => simpa [Memory.cell] using same e.1
    | cons e' rest' =>
      obtain ⟨b, w⟩ := e
      obtain ⟨b', w'⟩ := e'
      simp only [Memory.risesFrom, Bool.and_eq_true, decide_eq_true_eq] at h h'
      obtain ⟨_, hr⟩ := h
      obtain ⟨_, hr'⟩ := h'
      have hbb : b = b' := by
        by_contra hne
        rcases Nat.lt_or_gt_of_ne hne with hlt | hlt
        · have := same b
          rw [Memory.cell, if_pos rfl, Memory.cell, if_neg (by omega),
            Memory.cell_none_of_lt rest' (b' + 1) b hr' (by omega)] at this
          simp at this
        · have := same b'
          rw [Memory.cell, if_neg (by omega), Memory.cell_none_of_lt rest (b + 1) b' hr (by omega),
            Memory.cell, if_pos rfl] at this
          simp at this
      subst hbb
      have hww : w = w' := by simpa [Memory.cell] using same b
      subst hww
      have htail : rest = rest' := by
        refine ih rest' (b + 1) hr hr' fun a => ?_
        by_cases hab : a = b
        · subst hab
          rw [Memory.cell_none_of_lt rest (a + 1) a hr (by omega),
            Memory.cell_none_of_lt rest' (a + 1) a hr' (by omega)]
        · simpa [Memory.cell, hab] using same a
      rw [htail]

/-- The canonical form is canonical: equal contents are equal data. -/
theorem Memory.ext_of_wf (m m' : Memory) (h : m.wf = true) (h' : m'.wf = true)
    (same : ∀ a, m.cell a = m'.cell a) : m = m' :=
  Memory.ext_of_rises m m' 0 h h' same

/-! ### Addresses -/

@[simp] theorem toNat_programAddr (w : Word) : (programAddr w).toNat = w.toNat := by
  revert w
  decide

@[simp] theorem toNat_dataAddr (w : Word) : (dataAddr w).toNat = 256 + w.toNat := by
  revert w
  decide

/-! ### The memory of the state -/

/-- Every outside change keeps the canonical form (R40, R152, R154). -/
theorem State.atBoundary_wf (s : State) (rv : ResetValues) (e : BoundaryEvent) (h : s.mem.wf = true) :
    (s.atBoundary rv e).mem.wf = true := by
  cases e with
  | load a v => exact Memory.wf_put s.mem a v h
  | reset => exact h
  | prepare pc acc ix flags => exact h
  | takeOutput => exact h
  | setOutput flag data => exact h
  | setInput flag data => exact h

end Sys2Proof.Machine
end

