-- ==== Sys2Proof/Laws/Ops.lean ====
section
/-! SUPPORT. For each shared operation, one lemma that says once everything it can do. -/

namespace Sys2Proof.Machine

/-- A branch is either taken, its condition holding, or falls through past two words. -/
theorem State.branchWith_cases (s : State) (w : Bool) (c : Cond) (d : Word) :
    (s.condHolds w c = true ∧ s.branchWith w c d = s.jumpTo d) ∨
      (s.condHolds w c = false ∧ s.branchWith w c d = s.finish 2) := by
  unfold State.branchWith
  split
  · next h => exact .inl ⟨h, rfl⟩
  · next h => exact .inr ⟨by simpa using h, rfl⟩

/-- The same with the parameter at its default. -/
theorem State.branch_cases (s : State) (c : Cond) (d : Word) :
    (s.condHolds ioCondWired c = true ∧ s.branch c d = s.jumpTo d) ∨
      (s.condHolds ioCondWired c = false ∧ s.branch c d = s.finish 2) :=
  s.branchWith_cases ioCondWired c d

/-- `IN`'s transfer either takes the pending word and clears its flag, or draws a word. -/
theorem State.receiveInput_cases (s : State) :
    (s.ibuf.flag = true ∧
        s.receiveInput = { s with acc := s.ibuf.data, ibuf := ⟨false, s.ibuf.data⟩ }) ∨
      (s.ibuf.flag = false ∧
        s.receiveInput = { s with acc := Config.drawnWord s.draws, draws := s.draws + 1 }) := by
  unfold State.receiveInput
  split
  · next h => exact .inl ⟨h, rfl⟩
  · next h => exact .inr ⟨by simpa using h, rfl⟩

/-! ### What a branch and an input transfer leave alone -/

@[simp] theorem State.branchWith_acc (s : State) (w : Bool) (c : Cond) (d : Word) : (s.branchWith w c d).acc = s.acc := by
  rcases s.branchWith_cases w c d with ⟨_, h⟩ | ⟨_, h⟩ <;> rw [h] <;> rfl

@[simp] theorem State.branchWith_ix (s : State) (w : Bool) (c : Cond) (d : Word) : (s.branchWith w c d).ix = s.ix := by
  rcases s.branchWith_cases w c d with ⟨_, h⟩ | ⟨_, h⟩ <;> rw [h] <;> rfl

@[simp] theorem State.branchWith_flags (s : State) (w : Bool) (c : Cond) (d : Word) : (s.branchWith w c d).flags = s.flags := by
  rcases s.branchWith_cases w c d with ⟨_, h⟩ | ⟨_, h⟩ <;> rw [h] <;> rfl

@[simp] theorem State.branchWith_mem (s : State) (w : Bool) (c : Cond) (d : Word) : (s.branchWith w c d).mem = s.mem := by
  rcases s.branchWith_cases w c d with ⟨_, h⟩ | ⟨_, h⟩ <;> rw [h] <;> rfl

@[simp] theorem State.branchWith_obuf (s : State) (w : Bool) (c : Cond) (d : Word) : (s.branchWith w c d).obuf = s.obuf := by
  rcases s.branchWith_cases w c d with ⟨_, h⟩ | ⟨_, h⟩ <;> rw [h] <;> rfl

@[simp] theorem State.branchWith_ibuf (s : State) (w : Bool) (c : Cond) (d : Word) : (s.branchWith w c d).ibuf = s.ibuf := by
  rcases s.branchWith_cases w c d with ⟨_, h⟩ | ⟨_, h⟩ <;> rw [h] <;> rfl

@[simp] theorem State.branchWith_draws (s : State) (w : Bool) (c : Cond) (d : Word) : (s.branchWith w c d).draws = s.draws := by
  rcases s.branchWith_cases w c d with ⟨_, h⟩ | ⟨_, h⟩ <;> rw [h] <;> rfl

@[simp] theorem State.branchWith_outcome (s : State) (w : Bool) (c : Cond) (d : Word) :
    (s.branchWith w c d).outcome = some .continues := by
  rcases s.branchWith_cases w c d with ⟨_, h⟩ | ⟨_, h⟩ <;> rw [h] <;> rfl

@[simp] theorem State.reg_branchWith (s : State) (w : Bool) (c : Cond) (d : Word) (r : Reg) :
    (s.branchWith w c d).reg r = s.reg r := by
  cases r <;> simp

@[simp] theorem State.readWord_branchWith (s : State) (w : Bool) (c : Cond) (d : Word) (a : Addr) :
    (s.branchWith w c d).readWord a = s.readWord a := by
  simp [State.readWord]

@[simp] theorem State.receiveInput_pc (s : State) : s.receiveInput.pc = s.pc := by
  rcases s.receiveInput_cases with ⟨_, h⟩ | ⟨_, h⟩ <;> rw [h]

@[simp] theorem State.receiveInput_ix (s : State) : s.receiveInput.ix = s.ix := by
  rcases s.receiveInput_cases with ⟨_, h⟩ | ⟨_, h⟩ <;> rw [h]

@[simp] theorem State.receiveInput_flags (s : State) : s.receiveInput.flags = s.flags := by
  rcases s.receiveInput_cases with ⟨_, h⟩ | ⟨_, h⟩ <;> rw [h]

@[simp] theorem State.receiveInput_mem (s : State) : s.receiveInput.mem = s.mem := by
  rcases s.receiveInput_cases with ⟨_, h⟩ | ⟨_, h⟩ <;> rw [h]

@[simp] theorem State.receiveInput_obuf (s : State) : s.receiveInput.obuf = s.obuf := by
  rcases s.receiveInput_cases with ⟨_, h⟩ | ⟨_, h⟩ <;> rw [h]

@[simp] theorem State.receiveInput_outcome (s : State) : s.receiveInput.outcome = s.outcome := by
  rcases s.receiveInput_cases with ⟨_, h⟩ | ⟨_, h⟩ <;> rw [h]

@[simp] theorem State.readWord_receiveInput (s : State) (a : Addr) :
    s.receiveInput.readWord a = s.readWord a := by
  simp [State.readWord]

/-- `ST` either writes the one word at its effective address, or has no address and halts. -/
theorem execSt_cases (r : Reg) (b : Dest) (s : State) :
    (∃ a, s.destAddr b = some a ∧ execSt r b s = .next ((s.writeWord a (s.reg r)).finish b.length)) ∨
      (s.destAddr b = none ∧ execSt r b s = .next (s.takeHalt .operandFetchFailure)) := by
  unfold execSt
  cases h : s.destAddr b with
  | some a => exact .inl ⟨a, rfl, rfl⟩
  | none => exact .inr ⟨rfl, rfl⟩

/-- The adder, without its local names (R90). -/
theorem addCore_eq (a x : Word) (cin : Bool) :
    addCore a x cin =
      { res := BitVec.ofNat 8 (a.toNat + x.toNat + cin.toNat)
        carry := decide (a.toNat + x.toNat + cin.toNat > 255)
        overflow := (a.getLsbD 7 == x.getLsbD 7) &&
          ((BitVec.ofNat 8 (a.toNat + x.toNat + cin.toNat)).getLsbD 7 != a.getLsbD 7) } :=
  rfl

/-- A meaning under a configuration is the one of `exec`, or a branch on an I/O condition. -/
theorem execWith_cases (c : MachineConfig) (i : Instr) (s : State) :
    execWith c i s = exec i s ∨
      ∃ cond d, execWith c i s = .next (s.branchWith c.ioCondWired cond d) := by
  cases i <;> first | exact .inl rfl | exact .inr ⟨_, _, rfl⟩

/-- Under the default configuration `execWith` is `exec`. -/
@[simp] theorem execWith_default (i : Instr) (s : State) : execWith defaultConfig i s = exec i s := by
  cases i <;> rfl

/-- An instruction that is no I/O branch has one meaning under every configuration. -/
theorem execWith_of_not_io (c : MachineConfig) (i : Instr) (s : State) (hi : ∀ d, i ≠ .bni d)
    (ho : ∀ d, i ≠ .bno d) : execWith c i s = exec i s := by
  cases i <;> first | rfl | exact absurd rfl (hi _) | exact absurd rfl (ho _)

/-- The step, with the configuration gone: a halt where the fetch fails, else the meaning. -/
theorem step_eq (s : State) :
    step s = match fetchInstr s with
      | none => .next (s.takeHalt .decodeFailure)
      | some i => exec i s := by
  have h : step s = match fetchInstr s with
      | none => Host.Outcome.next (s.takeHalt .decodeFailure)
      | some i => execWith defaultConfig i s := rfl
  rw [h]
  cases fetchInstr s <;> simp

/-- What a fetch finds, in terms of the decoder on the two words at `pc` (R62, R63). -/
theorem fetchInstr_of_decode (s : State) (i : Instr) (rest : List Word)
    (h : decode defaultEncoding [s.firstWord, s.secondWord] = .ok (i, rest)) : fetchInstr s = some i := by
  unfold fetchInstr fetchInstrWith
  cases hv : decodeFirst defaultEncoding s.firstWord <;> simp [decode, hv] at h ⊢
  · exact h.1
  · exact h.1

/-- A fetch fails exactly where the decoder calls the first word unknown. -/
theorem fetchInstr_of_unknown (s : State) (h : decodeFirst defaultEncoding s.firstWord = .unknown) :
    fetchInstr s = none := by
  simp [fetchInstr, fetchInstrWith, h]

end Sys2Proof.Machine
end

