-- ==== Sys2Proof/Laws/PerInstr.lean ====
section
/-! SUPPORT. The family `EncodedLength`: of every instruction, with every operand, the encoder writes as
many words as the length rule R53 reads from its first word. One lemma per constructor. -/

namespace Sys2Proof.Laws

open Sys2Proof

/-- The encoded length is the length R53 reads from the first word. -/
def EncodedLength.Statement (i : Instr) : Prop :=
  (encode defaultEncoding i).length = lengthOfWord (encodeFirst defaultEncoding i)

/-- For a two-operand word other than `ST`'s, R53 reads the length of the operand. -/
theorem EncodedLength.of_operand (o : TwoOperandOp) (r : Reg) (b : Operand) {i : Instr} (ho : o ≠ .st)
    (hw : encodeFirst defaultEncoding i = twoOperandWord defaultEncoding o r b.mode)
    (hl : (encode defaultEncoding i).length = b.length) : EncodedLength.Statement i := by
  have key : ∀ (o : TwoOperandOp) (r : Reg) (m : Mode), o ≠ .st →
      lengthOfWord (twoOperandWord defaultEncoding o r m) = if m.takesWord then 2 else 1 := by
    intro o r m h
    cases o <;> cases r <;> cases m <;> first | decide | exact absurd rfl h
  rw [EncodedLength.Statement, hw, hl, key o r b.mode ho]
  cases b <;> rfl

theorem EncodedLength.nop : EncodedLength.Statement .nop :=
  show 1 = lengthOfWord (encodeFirst defaultEncoding .nop) by decide

theorem EncodedLength.jal (d : Word) : EncodedLength.Statement (.jal d) :=
  show 2 = lengthOfWord (encodeFirst defaultEncoding (.jal 0)) by decide

theorem EncodedLength.jr : EncodedLength.Statement .jr :=
  show 1 = lengthOfWord (encodeFirst defaultEncoding .jr) by decide

theorem EncodedLength.hlt : EncodedLength.Statement .hlt :=
  show 1 = lengthOfWord (encodeFirst defaultEncoding .hlt) by decide

theorem EncodedLength.out : EncodedLength.Statement .out :=
  show 1 = lengthOfWord (encodeFirst defaultEncoding .out) by decide

theorem EncodedLength.inp : EncodedLength.Statement .inp :=
  show 1 = lengthOfWord (encodeFirst defaultEncoding .inp) by decide

theorem EncodedLength.rcf : EncodedLength.Statement .rcf :=
  show 1 = lengthOfWord (encodeFirst defaultEncoding .rcf) by decide

theorem EncodedLength.scf : EncodedLength.Statement .scf :=
  show 1 = lengthOfWord (encodeFirst defaultEncoding .scf) by decide

theorem EncodedLength.ba (d : Word) : EncodedLength.Statement (.ba d) :=
  show 2 = lengthOfWord (encodeFirst defaultEncoding (.ba 0)) by decide

theorem EncodedLength.bnz (d : Word) : EncodedLength.Statement (.bnz d) :=
  show 2 = lengthOfWord (encodeFirst defaultEncoding (.bnz 0)) by decide

theorem EncodedLength.bzp (d : Word) : EncodedLength.Statement (.bzp d) :=
  show 2 = lengthOfWord (encodeFirst defaultEncoding (.bzp 0)) by decide

theorem EncodedLength.bp (d : Word) : EncodedLength.Statement (.bp d) :=
  show 2 = lengthOfWord (encodeFirst defaultEncoding (.bp 0)) by decide

theorem EncodedLength.bni (d : Word) : EncodedLength.Statement (.bni d) :=
  show 2 = lengthOfWord (encodeFirst defaultEncoding (.bni 0)) by decide

theorem EncodedLength.bnc (d : Word) : EncodedLength.Statement (.bnc d) :=
  show 2 = lengthOfWord (encodeFirst defaultEncoding (.bnc 0)) by decide

theorem EncodedLength.bge (d : Word) : EncodedLength.Statement (.bge d) :=
  show 2 = lengthOfWord (encodeFirst defaultEncoding (.bge 0)) by decide

theorem EncodedLength.bgt (d : Word) : EncodedLength.Statement (.bgt d) :=
  show 2 = lengthOfWord (encodeFirst defaultEncoding (.bgt 0)) by decide

theorem EncodedLength.bvf (d : Word) : EncodedLength.Statement (.bvf d) :=
  show 2 = lengthOfWord (encodeFirst defaultEncoding (.bvf 0)) by decide

theorem EncodedLength.bz (d : Word) : EncodedLength.Statement (.bz d) :=
  show 2 = lengthOfWord (encodeFirst defaultEncoding (.bz 0)) by decide

theorem EncodedLength.bn (d : Word) : EncodedLength.Statement (.bn d) :=
  show 2 = lengthOfWord (encodeFirst defaultEncoding (.bn 0)) by decide

theorem EncodedLength.bzn (d : Word) : EncodedLength.Statement (.bzn d) :=
  show 2 = lengthOfWord (encodeFirst defaultEncoding (.bzn 0)) by decide

theorem EncodedLength.bno (d : Word) : EncodedLength.Statement (.bno d) :=
  show 2 = lengthOfWord (encodeFirst defaultEncoding (.bno 0)) by decide

theorem EncodedLength.bc (d : Word) : EncodedLength.Statement (.bc d) :=
  show 2 = lengthOfWord (encodeFirst defaultEncoding (.bc 0)) by decide

theorem EncodedLength.blt (d : Word) : EncodedLength.Statement (.blt d) :=
  show 2 = lengthOfWord (encodeFirst defaultEncoding (.blt 0)) by decide

theorem EncodedLength.ble (d : Word) : EncodedLength.Statement (.ble d) :=
  show 2 = lengthOfWord (encodeFirst defaultEncoding (.ble 0)) by decide

theorem EncodedLength.sra (r : Reg) : EncodedLength.Statement (.sra r) :=
  show 1 = lengthOfWord (encodeFirst defaultEncoding (.sra .acc)) by decide

theorem EncodedLength.sla (r : Reg) : EncodedLength.Statement (.sla r) :=
  show 1 = lengthOfWord (encodeFirst defaultEncoding (.sla .acc)) by decide

theorem EncodedLength.srl (r : Reg) : EncodedLength.Statement (.srl r) :=
  show 1 = lengthOfWord (encodeFirst defaultEncoding (.srl .acc)) by decide

theorem EncodedLength.sll (r : Reg) : EncodedLength.Statement (.sll r) :=
  show 1 = lengthOfWord (encodeFirst defaultEncoding (.sll .acc)) by decide

theorem EncodedLength.rra (r : Reg) : EncodedLength.Statement (.rra r) :=
  show 1 = lengthOfWord (encodeFirst defaultEncoding (.rra .acc)) by decide

theorem EncodedLength.rla (r : Reg) : EncodedLength.Statement (.rla r) :=
  show 1 = lengthOfWord (encodeFirst defaultEncoding (.rla .acc)) by decide

theorem EncodedLength.rrl (r : Reg) : EncodedLength.Statement (.rrl r) :=
  show 1 = lengthOfWord (encodeFirst defaultEncoding (.rrl .acc)) by decide

theorem EncodedLength.rll (r : Reg) : EncodedLength.Statement (.rll r) :=
  show 1 = lengthOfWord (encodeFirst defaultEncoding (.rll .acc)) by decide

theorem EncodedLength.ld (r : Reg) (b : Operand) : EncodedLength.Statement (.ld r b) :=
  EncodedLength.of_operand .ld r b (by decide) rfl (by cases b <;> rfl)

theorem EncodedLength.st (r : Reg) (b : Dest) : EncodedLength.Statement (.st r b) := by
  have key : ∀ (r : Reg) (m : Mode), lengthOfWord (twoOperandWord defaultEncoding .st r m) =
      if m.takesWord && m != .imm then 2 else 1 := by
    intro r m
    cases r <;> cases m <;> decide
  rw [EncodedLength.Statement, show encodeFirst defaultEncoding (.st r b) =
    twoOperandWord defaultEncoding .st r b.mode from rfl, key r b.mode]
  cases b <;> rfl

theorem EncodedLength.sbc (r : Reg) (b : Operand) : EncodedLength.Statement (.sbc r b) :=
  EncodedLength.of_operand .sbc r b (by decide) rfl (by cases b <;> rfl)

theorem EncodedLength.adc (r : Reg) (b : Operand) : EncodedLength.Statement (.adc r b) :=
  EncodedLength.of_operand .adc r b (by decide) rfl (by cases b <;> rfl)

theorem EncodedLength.sub (r : Reg) (b : Operand) : EncodedLength.Statement (.sub r b) :=
  EncodedLength.of_operand .sub r b (by decide) rfl (by cases b <;> rfl)

theorem EncodedLength.add (r : Reg) (b : Operand) : EncodedLength.Statement (.add r b) :=
  EncodedLength.of_operand .add r b (by decide) rfl (by cases b <;> rfl)

theorem EncodedLength.eor (r : Reg) (b : Operand) : EncodedLength.Statement (.eor r b) :=
  EncodedLength.of_operand .eor r b (by decide) rfl (by cases b <;> rfl)

theorem EncodedLength.or (r : Reg) (b : Operand) : EncodedLength.Statement (.or r b) :=
  EncodedLength.of_operand .or r b (by decide) rfl (by cases b <;> rfl)

theorem EncodedLength.and (r : Reg) (b : Operand) : EncodedLength.Statement (.and r b) :=
  EncodedLength.of_operand .and r b (by decide) rfl (by cases b <;> rfl)

theorem EncodedLength.cmp (r : Reg) (b : Operand) : EncodedLength.Statement (.cmp r b) :=
  EncodedLength.of_operand .cmp r b (by decide) rfl (by cases b <;> rfl)

end Sys2Proof.Laws
end

