-- ==== Sys2Proof/Tests/Slice0.lean ====
section
/-! SUPPORT. Tests on fixed values, every expected value taken from the spec (the rule examples and the
vectors of spec/95_test_vectors.md, named at each test), and for every statement with hypotheses a
concrete input that meets them all. -/

namespace Sys2Proof.Tests

open Sys2Proof Sys2Proof.Machine Sys2Proof.Safety

/-- Flags written as the vectors write them: `C V N Z`. -/
def cvnz (c v n z : Nat) : Flags := ⟨c == 1, v == 1, n == 1, z == 1⟩

/-- A state that differs from reset in what a vector lists. -/
def start (pc acc ix : Word) (f : Flags) (mem : Memory) : State :=
  { State.reset with pc := pc, acc := acc, ix := ix, flags := f, mem := mem }

/-- The next state of a step, if it answers one. -/
def after (s : State) : Option State :=
  match step s with
  | .next t => some t
  | .fault _ => none
  | .refused _ => none

/-- What most vectors list after a step: `pc`, `acc`, `ix`, the flags, the outcome. -/
def seen (s : State) : Option (Word × Word × Word × Flags × Option StepOutcome) :=
  (after s).map fun t => (t.pc, t.acc, t.ix, t.flags, t.outcome)

/-! ### Well-formedness (R44, R57, note D5) -/

theorem test_wf_sra :
    (Instr.sra .ix).wf defaultEncoding = false ∧ (Instr.sra .acc).wf defaultEncoding = true := by decide

theorem test_wf_sla :
    (Instr.sla .ix).wf defaultEncoding = false ∧ (Instr.sla .acc).wf defaultEncoding = true := by decide

theorem test_wf_srl :
    (Instr.srl .ix).wf defaultEncoding = false ∧ (Instr.srl .acc).wf defaultEncoding = true := by decide

theorem test_wf_sll :
    (Instr.sll .ix).wf defaultEncoding = false ∧ (Instr.sll .acc).wf defaultEncoding = true := by decide

theorem test_wf_rra :
    (Instr.rra .acc).wf defaultEncoding = false ∧ (Instr.rra .ix).wf defaultEncoding = true := by decide

theorem test_wf_rla :
    (Instr.rla .acc).wf defaultEncoding = false ∧ (Instr.rla .ix).wf defaultEncoding = true := by decide

theorem test_wf_rrl :
    (Instr.rrl .acc).wf defaultEncoding = false ∧ (Instr.rrl .ix).wf defaultEncoding = true := by decide

theorem test_wf_rll :
    (Instr.rll .acc).wf defaultEncoding = false ∧ (Instr.rll .ix).wf defaultEncoding = true := by decide

theorem test_wf_alternative_names_both :
    (Instr.sra .ix).wf alternativeEncoding = true ∧ (Instr.rll .acc).wf alternativeEncoding = true := by decide

/-! ### Decoding of written-out words, one for every constructor -/

/-- Format FX: the whole byte (R45, R49). -/
theorem test_decode_fixed :
    decode defaultEncoding [0b00000000] = .ok (.nop, []) ∧
    decode defaultEncoding [0b00001010, 0x80] = .ok (.jal 0x80, []) ∧
    decode defaultEncoding [0b00001011] = .ok (.jr, []) ∧
    decode defaultEncoding [0b00001111] = .ok (.hlt, []) ∧
    decode defaultEncoding [0b00010000] = .ok (.out, []) ∧
    decode defaultEncoding [0b00011111] = .ok (.inp, []) ∧
    decode defaultEncoding [0b00100000] = .ok (.rcf, []) ∧
    decode defaultEncoding [0b00101111] = .ok (.scf, []) := by
  refine ⟨?_, ?_, ?_, ?_, ?_, ?_, ?_, ?_⟩ <;> rfl

/-- Format BR: prefix 0011, condition code (R43, R51). -/
theorem test_decode_branches :
    decode defaultEncoding [0b00110000, 0x40] = .ok (.ba 0x40, []) ∧
    decode defaultEncoding [0b00110001, 0x40] = .ok (.bnz 0x40, []) ∧
    decode defaultEncoding [0b00110010, 0x40] = .ok (.bzp 0x40, []) ∧
    decode defaultEncoding [0b00110011, 0x40] = .ok (.bp 0x40, []) ∧
    decode defaultEncoding [0b00110100, 0x40] = .ok (.bni 0x40, []) ∧
    decode defaultEncoding [0b00110101, 0x40] = .ok (.bnc 0x40, []) ∧
    decode defaultEncoding [0b00110110, 0x40] = .ok (.bge 0x40, []) ∧
    decode defaultEncoding [0b00110111, 0x40] = .ok (.bgt 0x40, []) ∧
    decode defaultEncoding [0b00111000, 0x40] = .ok (.bvf 0x40, []) ∧
    decode defaultEncoding [0b00111001, 0x40] = .ok (.bz 0x40, []) ∧
    decode defaultEncoding [0b00111010, 0x40] = .ok (.bn 0x40, []) ∧
    decode defaultEncoding [0b00111011, 0x40] = .ok (.bzn 0x40, []) ∧
    decode defaultEncoding [0b00111100, 0x40] = .ok (.bno 0x40, []) ∧
    decode defaultEncoding [0b00111101, 0x40] = .ok (.bc 0x40, []) ∧
    decode defaultEncoding [0b00111110, 0x40] = .ok (.blt 0x40, []) ∧
    decode defaultEncoding [0b00111111, 0x40] = .ok (.ble 0x40, []) := by
  refine ⟨?_, ?_, ?_, ?_, ?_, ?_, ?_, ?_, ?_, ?_, ?_, ?_, ?_, ?_, ?_, ?_⟩ <;> rfl

/-- Format SR: prefix 0100, family and register in bit 3, bit 2 not read, sub-mode (R44, R52). -/
theorem test_decode_shift_rotate :
    decode defaultEncoding [0b01000000] = .ok (.sra .acc, []) ∧
    decode defaultEncoding [0b01000001] = .ok (.sla .acc, []) ∧
    decode defaultEncoding [0b01000010] = .ok (.srl .acc, []) ∧
    decode defaultEncoding [0b01000011] = .ok (.sll .acc, []) ∧
    decode defaultEncoding [0b01001000] = .ok (.rra .ix, []) ∧
    decode defaultEncoding [0b01001001] = .ok (.rla .ix, []) ∧
    decode defaultEncoding [0b01001010] = .ok (.rrl .ix, []) ∧
    decode defaultEncoding [0b01001011] = .ok (.rll .ix, []) ∧
    decode defaultEncoding [0b01000100] = .ok (.sra .acc, []) ∧
    decode defaultEncoding [0b01001111] = .ok (.rll .ix, []) := by
  refine ⟨?_, ?_, ?_, ?_, ?_, ?_, ?_, ?_, ?_, ?_⟩ <;> rfl

/-- Format SR with the family in bit 2: the words of V-RLL9's last sentence (note D5). -/
theorem test_decode_alternative :
    decode alternativeEncoding [0x40] = .ok (.sra .acc, []) ∧
    decode alternativeEncoding [0x48] = .ok (.sra .ix, []) ∧
    decode alternativeEncoding [0x47] = .ok (.rll .acc, []) ∧
    decode alternativeEncoding [0x4F] = .ok (.rll .ix, []) := by
  refine ⟨?_, ?_, ?_, ?_⟩ <;> rfl

/-- Format AB: prefix, A-field, mode 101 (R42, R48, R49). -/
theorem test_decode_two_operand :
    decode defaultEncoding [0b01100101, 0x30] = .ok (.ld .acc (.absD 0x30), []) ∧
    decode defaultEncoding [0b01111101, 0x30] = .ok (.st .ix (.absD 0x30), []) ∧
    decode defaultEncoding [0b10000101, 0x30] = .ok (.sbc .acc (.absD 0x30), []) ∧
    decode defaultEncoding [0b10011101, 0x30] = .ok (.adc .ix (.absD 0x30), []) ∧
    decode defaultEncoding [0b10100101, 0x30] = .ok (.sub .acc (.absD 0x30), []) ∧
    decode defaultEncoding [0b10111101, 0x30] = .ok (.add .ix (.absD 0x30), []) ∧
    decode defaultEncoding [0b11000101, 0x30] = .ok (.eor .acc (.absD 0x30), []) ∧
    decode defaultEncoding [0b11011101, 0x30] = .ok (.or .ix (.absD 0x30), []) ∧
    decode defaultEncoding [0b11100101, 0x30] = .ok (.and .acc (.absD 0x30), []) ∧
    decode defaultEncoding [0b11111101, 0x30] = .ok (.cmp .ix (.absD 0x30), []) := by
  refine ⟨?_, ?_, ?_, ?_, ?_, ?_, ?_, ?_, ?_, ?_⟩ <;> rfl

/-- The seven modes of the B-field (R50, table V-LD). -/
theorem test_decode_modes :
    decode defaultEncoding [0b01101000] = .ok (.ld .ix .acc, []) ∧
    decode defaultEncoding [0b01101001] = .ok (.ld .ix .ix, []) ∧
    decode defaultEncoding [0b01101010, 0x30] = .ok (.ld .ix (.imm 0x30), []) ∧
    decode defaultEncoding [0b01101100, 0x30] = .ok (.ld .ix (.absP 0x30), []) ∧
    decode defaultEncoding [0b01101101, 0x30] = .ok (.ld .ix (.absD 0x30), []) ∧
    decode defaultEncoding [0b01101110, 0x30] = .ok (.ld .ix (.idxP 0x30), []) ∧
    decode defaultEncoding [0b01101111, 0x30] = .ok (.ld .ix (.idxD 0x30), []) := by
  refine ⟨?_, ?_, ?_, ?_, ?_, ?_, ?_⟩ <;> rfl

/-- The seven modes under `ST`; of `IMM` no second word is taken (R53, R88). -/
theorem test_decode_store_modes :
    decode defaultEncoding [0b01110000] = .ok (.st .acc .acc, []) ∧
    decode defaultEncoding [0b01110001] = .ok (.st .acc .ix, []) ∧
    decode defaultEncoding [0b01110010] = .ok (.st .acc .imm, []) ∧
    decode defaultEncoding [0b01110100, 0x30] = .ok (.st .acc (.absP 0x30), []) ∧
    decode defaultEncoding [0b01110101, 0x30] = .ok (.st .acc (.absD 0x30), []) ∧
    decode defaultEncoding [0b01110110, 0x30] = .ok (.st .acc (.idxP 0x30), []) ∧
    decode defaultEncoding [0b01110111, 0x30] = .ok (.st .acc (.idxD 0x30), []) := by
  refine ⟨?_, ?_, ?_, ?_, ?_, ?_, ?_⟩ <;> rfl

/-- First and last words of the unknown ranges of R54. -/
theorem test_decode_unknown :
    ∀ w ∈ [(0x01 : Word), 0x09, 0x0C, 0x0E, 0x11, 0x1E, 0x21, 0x2E, 0x50, 0x5F, 0x63, 0x6B, 0xF3, 0xFB],
      decode defaultEncoding [w] = .error .unknownInstruction := by
  intro w h
  fin_cases h <;> rfl

/-- The table's numbering: the first word is the low byte. -/
theorem test_decode_table_word :
    decodeTableWord 16 0x05B2 = some (.add .acc (.imm 0x05)) ∧ decodeTableWord 8 0x0A = some (.jal 0) ∧
    decodeTableWord 16 0x30FF = some (.cmp .ix (.idxD 0x30)) ∧ decodeTableWord 8 0x50 = none := by decide +kernel

/-! ### Single steps -/

/-- R79, its example. -/
theorem test_nop :
    seen (start 0x10 0x12 0x34 (cvnz 1 0 1 0) [(0x10, 0x00)]) =
      some (0x11, 0x12, 0x34, cvnz 1 0 1 0, some .continues) := by decide

/-- R79: at 0xFF the next `pc` is 0x00. -/
theorem test_nop_wraps :
    seen (start 0xFF 0x01 0x02 (cvnz 0 0 0 0) [(0xff, 0x00)]) =
      some (0x00, 0x01, 0x02, cvnz 0 0 0 0, some .continues) := by decide

/-- R80, its example (S3). -/
theorem test_hlt :
    seen (start 0x05 0x12 0x00 (cvnz 1 0 0 0) [(5, 0x0F)]) =
      some (0x06, 0x12, 0x00, cvnz 1 0 0 0, some (.halt .haltInstruction)) := by decide

/-- R81, its example. -/
theorem test_rcf :
    seen (start 0x00 0x00 0x00 (cvnz 1 1 0 0) [(0, 0x20)]) =
      some (0x01, 0x00, 0x00, cvnz 0 1 0 0, some .continues) := by decide

/-- R82, its example. -/
theorem test_scf :
    seen (start 0x00 0x00 0x00 (cvnz 0 1 1 0) [(0, 0x2F)]) =
      some (0x01, 0x00, 0x00, cvnz 1 1 1 0, some .continues) := by decide

/-- R84: the example, over a word not yet taken, which is lost. -/
theorem test_out :
    (after { start 0 0x41 0 (cvnz 0 0 0 0) [(0, 0x10)] with obuf := ⟨true, 0x99⟩ }).map (fun t => (t.obuf, t.acc, t.pc)) =
      some (⟨true, 0x41⟩, 0x41, 0x01) := by decide

/-- R85, its example. -/
theorem test_in :
    (after { start 0 0 0 (cvnz 0 0 0 1) [(0, 0x1F)] with ibuf := ⟨true, 0x7E⟩ }).map
        (fun t => (t.acc, t.ibuf.flag, t.pc, t.flags)) =
      some (0x7E, false, 0x01, cvnz 0 0 0 1) := by decide

/-- R85 with no word pending: the fields the spec fixes. -/
theorem test_in_without_word :
    (after (start 0 0 0x22 (cvnz 1 0 0 1) [(0, 0x1F)])).map (fun t => (t.ibuf.flag, t.pc, t.ix, t.flags)) =
      some (false, 0x01, 0x22, cvnz 1 0 0 1) := by decide

/-- V-LD, `LD ACC, (0x30)`. -/
theorem test_ld_absolute_data :
    seen (start 0x40 0x11 0xF0 (cvnz 1 1 1 1) [(0x20, 0xC3), (0x30, 0xA1), (0x40, 0x65), (0x41, 0x30), (0x120, 0xD4), (0x130, 0xB2)]) =
      some (0x42, 0xB2, 0xF0, cvnz 1 1 1 1, some .continues) := by decide

/-- V-LD, `LD IX, [IX+0x30]`: the address wraps and takes the old `ix`. -/
theorem test_ld_indexed_program :
    seen (start 0x40 0x11 0xF0 (cvnz 1 1 1 1) [(0x20, 0xC3), (0x30, 0xA1), (0x40, 0x6E), (0x41, 0x30), (0x120, 0xD4), (0x130, 0xB2)]) =
      some (0x42, 0x11, 0xC3, cvnz 1 1 1 1, some .continues) := by decide

/-- R87, its example. -/
theorem test_st :
    (after (start 0 0xC3 0 (cvnz 0 0 0 0) [(0, 0x75), (1, 0x10)])).map (fun t => (t.mem, t.pc, t.acc)) =
      some ([(0, 0x75), (1, 0x10), (0x110, 0xC3)], 0x02, 0xC3) := by decide

/-- R88, its example. -/
theorem test_st_immediate_halts :
    seen (start 0x00 0x11 0x00 (cvnz 0 0 0 0) [(0, 0x72)]) =
      some (0x01, 0x11, 0x00, cvnz 0 0 0 0, some (.halt .operandFetchFailure)) := by decide

/-- S2. -/
theorem test_add_carry_zero :
    seen (start 0x00 0xFF 0x00 (cvnz 0 0 0 0) [(0, 0xB2), (1, 0x01)]) =
      some (0x02, 0x00, 0x00, cvnz 1 0 0 1, some .continues) := by decide

/-- V-ADD, `ADD ACC, ACC`. -/
theorem test_add_reads_before_write :
    seen (start 0x00 0x81 0x00 (cvnz 0 0 0 0) [(0, 0xB0)]) =
      some (0x01, 0x02, 0x00, cvnz 1 1 0 0, some .continues) := by decide

/-- V-ADD: overflow from Cin alone. -/
theorem test_adc_overflow :
    seen (start 0x00 0x7F 0x00 (cvnz 1 0 0 0) [(0, 0x92), (1, 0x00)]) =
      some (0x02, 0x80, 0x00, cvnz 0 1 1 0, some .continues) := by decide

/-- V-ADD, `ADC ACC, [0x00]`: the operand is the instruction's own first word. -/
theorem test_adc_own_word :
    seen (start 0x00 0x01 0x00 (cvnz 1 0 0 0) [(0, 0x94), (1, 0x00)]) =
      some (0x02, 0x96, 0x00, cvnz 0 0 1 0, some .continues) := by decide

/-- V-SUB: 0 - -128 overflows. -/
theorem test_sub_overflow :
    seen (start 0x00 0x00 0x00 (cvnz 0 0 0 0) [(0, 0xA2), (1, 0x80)]) =
      some (0x02, 0x80, 0x00, cvnz 1 1 1 0, some .continues) := by decide

/-- V-SUB: Cin ignored. -/
theorem test_sub_ignores_carry :
    seen (start 0x00 0x10 0x00 (cvnz 1 0 0 0) [(0, 0xA2), (1, 0x20)]) =
      some (0x02, 0xF0, 0x00, cvnz 1 0 1 0, some .continues) := by decide

/-- V-SUB: B = 0xFF with borrow subtracts 256. -/
theorem test_sbc_255 :
    seen (start 0x00 0x5A 0x00 (cvnz 1 0 0 0) [(0, 0x82), (1, 0xFF)]) =
      some (0x02, 0x5A, 0x00, cvnz 1 0 0 0, some .continues) := by decide

/-- V-SUB: -128 - 127 - 1 = -256. -/
theorem test_sbc_overflow :
    seen (start 0x00 0x80 0x00 (cvnz 1 0 0 0) [(0, 0x82), (1, 0x7F)]) =
      some (0x02, 0x00, 0x00, cvnz 0 1 0 1, some .continues) := by decide

/-- V-SUB: acc kept, Cin ignored. -/
theorem test_cmp :
    seen (start 0x00 0x03 0x00 (cvnz 1 0 0 0) [(0, 0xF2), (1, 0x05)]) =
      some (0x02, 0x03, 0x00, cvnz 1 0 1 0, some .continues) := by decide

/-- V-LOG, `AND IX, ACC`. -/
theorem test_and_ix_acc :
    seen (start 0x00 0x0F 0xF3 (cvnz 1 1 0 0) [(0, 0xE8)]) =
      some (0x01, 0x0F, 0x03, cvnz 0 0 0 0, some .continues) := by decide

/-- R100, its example. -/
theorem test_or :
    seen (start 0x00 0x81 0x00 (cvnz 1 1 0 0) [(0, 0xD2), (1, 0x0E)]) =
      some (0x02, 0x8F, 0x00, cvnz 0 0 1 0, some .continues) := by decide

/-- V-LOG, `EOR ACC, ACC`. -/
theorem test_eor_self :
    seen (start 0x00 0x99 0x00 (cvnz 1 1 1 0) [(0, 0xC0)]) =
      some (0x01, 0x00, 0x00, cvnz 0 0 0 1, some .continues) := by decide

/-- V-SRA: 0x85. -/
theorem test_sra :
    seen (start 0x00 0x85 0x77 (cvnz 0 1 0 0) [(0, 0x40)]) =
      some (0x01, 0xC2, 0x77, cvnz 1 1 1 0, some .continues) := by decide

/-- V-RLL: 0x96 with C = 1. -/
theorem test_rll :
    seen (start 0x00 0x55 0x96 (cvnz 1 0 0 0) [(0, 0x4B)]) =
      some (0x01, 0x55, 0x2D, cvnz 1 0 0 0, some .continues) := by decide

/-- V-UNS. -/
theorem test_sla_halts :
    seen (start 0x40 0x11 0xF0 (cvnz 1 0 0 1) [(0x40, 0x41)]) =
      some (0x41, 0x11, 0xF0, cvnz 1 0 0 1, some (.halt .unsupportedSubMode)) ∧
    seen (start 0x40 0x11 0xF0 (cvnz 1 0 0 1) [(0x40, 0x45)]) =
      some (0x41, 0x11, 0xF0, cvnz 1 0 0 1, some (.halt .unsupportedSubMode)) :=
  ⟨by decide, by decide⟩

/-- V-UNS. -/
theorem test_srl_halts :
    seen (start 0x40 0x11 0xF0 (cvnz 1 0 0 1) [(0x40, 0x42)]) =
      some (0x41, 0x11, 0xF0, cvnz 1 0 0 1, some (.halt .unsupportedSubMode)) ∧
    seen (start 0x40 0x11 0xF0 (cvnz 1 0 0 1) [(0x40, 0x46)]) =
      some (0x41, 0x11, 0xF0, cvnz 1 0 0 1, some (.halt .unsupportedSubMode)) :=
  ⟨by decide, by decide⟩

/-- V-UNS. -/
theorem test_sll_halts :
    seen (start 0x40 0x11 0xF0 (cvnz 1 0 0 1) [(0x40, 0x43)]) =
      some (0x41, 0x11, 0xF0, cvnz 1 0 0 1, some (.halt .unsupportedSubMode)) ∧
    seen (start 0x40 0x11 0xF0 (cvnz 1 0 0 1) [(0x40, 0x47)]) =
      some (0x41, 0x11, 0xF0, cvnz 1 0 0 1, some (.halt .unsupportedSubMode)) :=
  ⟨by decide, by decide⟩

/-- V-UNS. -/
theorem test_rra_halts :
    seen (start 0x40 0x11 0xF0 (cvnz 1 0 0 1) [(0x40, 0x48)]) =
      some (0x41, 0x11, 0xF0, cvnz 1 0 0 1, some (.halt .unsupportedSubMode)) ∧
    seen (start 0x40 0x11 0xF0 (cvnz 1 0 0 1) [(0x40, 0x4C)]) =
      some (0x41, 0x11, 0xF0, cvnz 1 0 0 1, some (.halt .unsupportedSubMode)) :=
  ⟨by decide, by decide⟩

/-- V-UNS. -/
theorem test_rla_halts :
    seen (start 0x40 0x11 0xF0 (cvnz 1 0 0 1) [(0x40, 0x49)]) =
      some (0x41, 0x11, 0xF0, cvnz 1 0 0 1, some (.halt .unsupportedSubMode)) ∧
    seen (start 0x40 0x11 0xF0 (cvnz 1 0 0 1) [(0x40, 0x4D)]) =
      some (0x41, 0x11, 0xF0, cvnz 1 0 0 1, some (.halt .unsupportedSubMode)) :=
  ⟨by decide, by decide⟩

/-- V-UNS. -/
theorem test_rrl_halts :
    seen (start 0x40 0x11 0xF0 (cvnz 1 0 0 1) [(0x40, 0x4A)]) =
      some (0x41, 0x11, 0xF0, cvnz 1 0 0 1, some (.halt .unsupportedSubMode)) ∧
    seen (start 0x40 0x11 0xF0 (cvnz 1 0 0 1) [(0x40, 0x4E)]) =
      some (0x41, 0x11, 0xF0, cvnz 1 0 0 1, some (.halt .unsupportedSubMode)) :=
  ⟨by decide, by decide⟩

/-- R54, R136, R139: prefix 0x5. -/
theorem test_unknown_halts :
    seen (start 0xFF 0x11 0x22 (cvnz 1 0 1 0) [(0xff, 0x50)]) =
      some (0x00, 0x11, 0x22, cvnz 1 0 1 0, some (.halt .decodeFailure)) := by decide

/-- Where a branch with target 0x40 at address 0 leads, by its first word and the flags. -/
def branchTo (w1 : Word) (f : Flags) : Option Word :=
  (after (start 0 0 0 f [(0, w1), (1, 0x40)])).map State.pc

/-- R114, its example. -/
theorem test_ba :
    branchTo 0x30 (cvnz 1 1 1 1) = some 0x40 ∧ branchTo 0x30 (cvnz 0 0 0 0) = some 0x40 := by decide

/-- R115, its example. -/
theorem test_bnz :
    branchTo 0x31 (cvnz 0 0 0 0) = some 0x40 ∧ branchTo 0x31 (cvnz 0 0 0 1) = some 0x02 := by decide

/-- R116, its example. -/
theorem test_bzp :
    branchTo 0x32 (cvnz 0 0 0 0) = some 0x40 ∧ branchTo 0x32 (cvnz 0 0 1 0) = some 0x02 := by decide

/-- R117, its example. -/
theorem test_bp :
    branchTo 0x33 (cvnz 0 0 0 0) = some 0x40 ∧ branchTo 0x33 (cvnz 0 0 0 1) = some 0x02 := by decide

/-- R118, its example. -/
theorem test_bni :
    branchTo 0x34 (cvnz 0 0 0 0) = some 0x02 ∧ branchTo 0x34 (cvnz 1 1 1 1) = some 0x02 := by decide

/-- R119, its example. -/
theorem test_bnc :
    branchTo 0x35 (cvnz 0 0 0 0) = some 0x40 ∧ branchTo 0x35 (cvnz 1 0 0 0) = some 0x02 := by decide

/-- R120, its example. -/
theorem test_bge :
    branchTo 0x36 (cvnz 0 1 1 0) = some 0x40 ∧ branchTo 0x36 (cvnz 0 0 1 0) = some 0x02 := by decide

/-- R121, its example. -/
theorem test_bgt :
    branchTo 0x37 (cvnz 0 0 0 0) = some 0x40 ∧ branchTo 0x37 (cvnz 0 0 0 1) = some 0x02 := by decide

/-- R122, its example. -/
theorem test_bvf :
    branchTo 0x38 (cvnz 0 1 0 0) = some 0x40 ∧ branchTo 0x38 (cvnz 0 0 0 0) = some 0x02 := by decide

/-- R123, its example. -/
theorem test_bz :
    branchTo 0x39 (cvnz 0 0 0 1) = some 0x40 ∧ branchTo 0x39 (cvnz 0 0 0 0) = some 0x02 := by decide

/-- R124, its example. -/
theorem test_bn :
    branchTo 0x3A (cvnz 0 0 1 0) = some 0x40 ∧ branchTo 0x3A (cvnz 0 0 0 0) = some 0x02 := by decide

/-- R125, its example. -/
theorem test_bzn :
    branchTo 0x3B (cvnz 0 0 0 1) = some 0x40 ∧ branchTo 0x3B (cvnz 0 0 0 0) = some 0x02 := by decide

/-- R126, its example. -/
theorem test_bno :
    branchTo 0x3C (cvnz 0 0 0 0) = some 0x02 ∧ branchTo 0x3C (cvnz 1 1 1 1) = some 0x02 := by decide

/-- R127, its example. -/
theorem test_bc :
    branchTo 0x3D (cvnz 1 0 0 0) = some 0x40 ∧ branchTo 0x3D (cvnz 0 0 0 0) = some 0x02 := by decide

/-- R128, its example. -/
theorem test_blt :
    branchTo 0x3E (cvnz 0 0 1 0) = some 0x40 ∧ branchTo 0x3E (cvnz 0 1 1 0) = some 0x02 := by decide

/-- R129, its example. -/
theorem test_ble :
    branchTo 0x3F (cvnz 0 0 0 1) = some 0x40 ∧ branchTo 0x3F (cvnz 0 0 0 0) = some 0x02 := by decide

/-- R130, its example. -/
theorem test_jal :
    seen (start 0x10 0x55 0x66 (cvnz 1 0 0 1) [(0x10, 0x0A), (0x11, 0x80)]) =
      some (0x80, 0x12, 0x66, cvnz 1 0 0 1, some .continues) := by decide

/-- R130: at 0xFF it links 0x01 and takes its target from 0x000. -/
theorem test_jal_wraps :
    seen (start 0xFF 0x00 0x00 (cvnz 0 0 0 0) [(0, 0x40), (0xff, 0x0A)]) =
      some (0x40, 0x01, 0x00, cvnz 0 0 0 0, some .continues) := by decide

/-- R131, its example. -/
theorem test_jr :
    seen (start 0x80 0x12 0x34 (cvnz 0 0 0 0) [(0x80, 0x0B)]) =
      some (0x12, 0x12, 0x34, cvnz 0 0 0 0, some .continues) := by decide

/-- An instruction placed for the next step is the one it runs. -/
theorem test_with_fetch_word :
    (after (State.reset.withFetchWord 16 0x05B2)).map (fun t => (t.pc, t.acc)) = some (0x02, 0x05) := by decide

/-- R151, R152: reset after a halt; memory kept, no outcome. -/
theorem test_reset_halted_machine :
    ((start 9 1 2 (cvnz 1 1 1 1) [(3, 4)]).takeHalt .haltInstruction).atBoundary Config.resetValues .reset =
    start 0 0 0 (cvnz 0 0 0 0) [(3, 4)] := by decide

/-- R135. -/
theorem test_reason_codes :
    HaltReason.haltInstruction.code = 0 ∧ HaltReason.decodeFailure.code = 1 ∧
    HaltReason.unsupportedSubMode.code = 2 ∧ HaltReason.operandFetchFailure.code = 3 := by decide

/-! ### Memory in canonical form -/

theorem test_put_keeps_order : Memory.put [(1, 0x0A), (0x1FF, 0x0B)] 0x100 0x0C =
    [(1, 0x0A), (0x100, 0x0C), (0x1FF, 0x0B)] := by decide

theorem test_put_replaces : Memory.put [(1, 0x0A), (2, 0x0B)] 2 0x0C = [(1, 0x0A), (2, 0x0C)] := by decide

theorem test_form_refused : Memory.wf [(2, 0x0A), (1, 0x0B)] = false ∧ Memory.wf [(1, 0x0A), (1, 0x0A)] = false ∧
    Memory.wf [(0x200, 0x0A)] = false := by decide

/-! ### Witnesses: every statement with hypotheses has an input that meets them -/

/-- The spec's numbers are distinct. -/
theorem distinct_default : DistinctCodes defaultEncoding := by
  constructor <;> (try decide) <;>
    (intro o; cases o <;> (try decide) <;> (intro o'; cases o' <;> decide))

/-- So are the alternative's, which differ only in the family bit. -/
theorem distinct_alternative : DistinctCodes alternativeEncoding :=
  ⟨distinct_default.1, distinct_default.2, distinct_default.3, distinct_default.4, distinct_default.5,
   distinct_default.6, distinct_default.7, distinct_default.8, distinct_default.9, distinct_default.10,
   distinct_default.11⟩

theorem witness_DecodeEncodeAgree :
    (Instr.sra .acc).wf defaultEncoding = true ∧ (Instr.rll .ix).wf defaultEncoding = true ∧
    (Instr.st .ix (.idxD 0xFF)).wf defaultEncoding = true := by decide

theorem witness_DecodeEncodeAgreeForEveryNumbering :
    DistinctCodes defaultEncoding ∧ (Instr.sra .acc).wf defaultEncoding = true ∧
    DistinctCodes alternativeEncoding ∧ (Instr.sra .ix).wf alternativeEncoding = true :=
  ⟨distinct_default, rfl, distinct_alternative, rfl⟩

theorem witness_DecodedWordsReencode :
    decode defaultEncoding [0x44, 0x07] = .ok (.sra .acc, [0x07]) ∧
    decode defaultEncoding [0xFF, 0xFF] = .ok (.cmp .ix (.idxD 0xFF), []) ∧
    decode defaultEncoding [0x00] = .ok (.nop, []) := ⟨rfl, rfl, rfl⟩

theorem witness_SecondWordIsTheOperand :
    decodeFirst defaultEncoding 0x0A = .twoWord Instr.jal ∧
    decodeFirst defaultEncoding 0x3F = .twoWord Instr.ble ∧
    decodeFirst defaultEncoding 0xFF = .twoWord (fun d => .cmp .ix (.idxD d)) := ⟨rfl, rfl, rfl⟩

theorem witness_LengthFollowsFirstWord :
    decode defaultEncoding [0x72, 0x05] = .ok (.st .acc .imm, [0x05]) ∧
    decode defaultEncoding [0x62, 0x05] = .ok (.ld .acc (.imm 0x05), []) := ⟨rfl, rfl⟩

/-- A machine whose `pc` stands at its last program address, an `ADD ACC, 0x05` lying there and at 0. -/
def addAtTop : State := start 0xFF 0x03 0 (cvnz 0 0 0 0) [(0, 0x05), (0xFF, 0xB2)]

theorem witness_StepRunsDecodedInstruction :
    decode defaultEncoding [addAtTop.firstWord, addAtTop.secondWord] = .ok (.add .acc (.imm 0x05), []) := rfl

/-- A machine about to meet the first word `w`. -/
def atWord (w : Word) : State := start 0xFF 0x11 0x22 (cvnz 1 0 1 0) [(0, 0x40), (0xFF, w)]

/-- A machine whose numbering keeps the family in bit 2, its I/O conditions wired. -/
def otherConfig : MachineConfig := { defaultConfig with encoding := alternativeEncoding, ioCondWired := true }

/-- One word, and two words across the wrap of `pc`. -/
theorem witness_StepUnderEveryConfiguration :
    DistinctCodes otherConfig.encoding ∧
    ((Instr.sra .ix).wf otherConfig.encoding = true ∧
      (start 0 0 0 (cvnz 0 0 0 0) [(0, 0x48)]).firstWord = encodeFirst otherConfig.encoding (.sra .ix) ∧
      encodeSecond (.sra .ix) = none) ∧
    ((Instr.add .acc (.imm 0x05)).wf otherConfig.encoding = true ∧
      addAtTop.firstWord = encodeFirst otherConfig.encoding (.add .acc (.imm 0x05)) ∧
      encodeSecond (.add .acc (.imm 0x05)) = some 0x05 ∧ addAtTop.secondWord = 0x05) ∧
    (∀ d, Instr.nop ≠ .bni d) ∧ (∀ d, Instr.nop ≠ .bno d) :=
  ⟨distinct_alternative, ⟨rfl, rfl, rfl⟩, ⟨rfl, rfl, rfl, rfl⟩, (by intro d h; cases h), (by intro d h; cases h)⟩

/-- R118 with the conditions wired: `BNI` is taken with no word pending, and not with one. -/
theorem test_bni_wired :
    execWith otherConfig (.bni 0x40) State.reset = .next (State.reset.jumpTo 0x40) ∧
    execWith otherConfig (.bni 0x40) { State.reset with ibuf := ⟨true, 0⟩ } =
      .next (({ State.reset with ibuf := ⟨true, 0⟩ } : State).finish 2) := ⟨rfl, rfl⟩

/-- R126 with the conditions wired: `BNO` is taken with a word not yet taken, and not without. -/
theorem test_bno_wired :
    execWith otherConfig (.bno 0x40) { State.reset with obuf := ⟨true, 0⟩ } =
      .next (({ State.reset with obuf := ⟨true, 0⟩ } : State).jumpTo 0x40) ∧
    execWith otherConfig (.bno 0x40) State.reset = .next (State.reset.finish 2) := ⟨rfl, rfl⟩

/-- With the family in bit 2 the word 0x48 is `SRA IX` (V-RLL9's last sentence; V-SRA's 0x85). -/
theorem test_step_other_numbering :
    stepWith otherConfig (start 0 0x11 0x85 (cvnz 0 1 0 0) [(0, 0x48)]) =
      .next { start 1 0x11 0xC2 (cvnz 1 1 1 0) [(0, 0x48)] with outcome := some .continues } := rfl

theorem witness_UnknownWordHalts :
    decode defaultEncoding ((atWord 0x50).firstWord :: []) = .error .unknownInstruction := rfl

theorem witness_HaltChangesOnlyPc :
    (step (atWord 0x0F) = .next ((atWord 0x0F).takeHalt .haltInstruction) ∧
      ((atWord 0x0F).takeHalt .haltInstruction).outcome = some (.halt .haltInstruction)) ∧
    (step (atWord 0x6B) = .next ((atWord 0x6B).takeHalt .decodeFailure) ∧
      ((atWord 0x6B).takeHalt .decodeFailure).outcome = some (.halt .decodeFailure)) ∧
    (step (atWord 0x4E) = .next ((atWord 0x4E).takeHalt .unsupportedSubMode) ∧
      ((atWord 0x4E).takeHalt .unsupportedSubMode).outcome = some (.halt .unsupportedSubMode)) ∧
    (step (atWord 0x7A) = .next ((atWord 0x7A).takeHalt .operandFetchFailure) ∧
      ((atWord 0x7A).takeHalt .operandFetchFailure).outcome = some (.halt .operandFetchFailure)) :=
  ⟨⟨rfl, rfl⟩, ⟨rfl, rfl⟩, ⟨rfl, rfl⟩, ⟨rfl, rfl⟩⟩

/-- One first word for each of the five answers of the table of R54. -/
theorem witness_OutcomeFollowsFirstWord :
    step (atWord 0x01) = .next ((atWord 0x01).takeHalt .decodeFailure) ∧
    step (atWord 0x41) = .next ((atWord 0x41).takeHalt .unsupportedSubMode) ∧
    step (atWord 0x70) = .next ((atWord 0x70).takeHalt .operandFetchFailure) ∧
    step (atWord 0x0F) = .next ((atWord 0x0F).takeHalt .haltInstruction) ∧
    step (atWord 0x00) = .next ((atWord 0x00).finish 1) := ⟨rfl, rfl, rfl, rfl, rfl⟩

/-- One first word for each branch of the statement, all at the wrap of `pc`. -/
theorem witness_PcAfterEveryStep :
    step (atWord 0x0A) = .next (((atWord 0x0A).setReg .acc 0x01).jumpTo 0x40) ∧
    step (atWord 0x0B) = .next ((atWord 0x0B).jumpTo 0x11) ∧
    step (atWord 0x30) = .next ((atWord 0x30).jumpTo 0x40) ∧
    step (atWord 0x35) = .next ((atWord 0x35).finish 2) ∧
    step (atWord 0x62) = .next (((atWord 0x62).setReg .acc 0x40).finish 2) := ⟨rfl, rfl, rfl, rfl, rfl⟩

theorem witness_FetchSeesProgramRegionOnly :
    (addAtTop.writeWord (dataAddr 0x00) 0x99).pc = addAtTop.pc ∧
    ∀ w, (addAtTop.writeWord (dataAddr 0x00) 0x99).readWord (programAddr w) = addAtTop.readWord (programAddr w) := by
  refine ⟨rfl, fun w => ?_⟩
  have : (programAddr w).toNat ≠ (dataAddr 0x00).toNat := by
    rw [toNat_programAddr, toNat_dataAddr]
    have := w.isLt
    omega
  simp only [State.readWord, State.writeWord_mem, Memory.cell_put_other _ _ _ _ this]

/-- A machine whose next instruction stores `acc` at the last address, 0x1FF. -/
def storeAtEnd : State := start 0 0xC3 0xFF (cvnz 0 0 0 0) [(0, 0x77), (1, 0x00)]

theorem witness_StepKeepsMemoryCanonical :
    MemoryCanonical storeAtEnd ∧ step storeAtEnd = .next ((storeAtEnd.writeWord 0x1FF 0xC3).finish 2) :=
  ⟨rfl, rfl⟩

/-- A run from reset that ends in a halt, and one that the driver bounds. -/
theorem witness_EveryRunStaysCanonical :
    MemoryCanonical State.reset ∧
    driveSteps defaultConfig [[.load 0 0x0F]] State.reset =
      .halted .haltInstruction ((State.reset.writeWord 0 0x0F).takeHalt .haltInstruction) ∧
    driveSteps defaultConfig [[.load 0 0x00]] State.reset = .bounded ((State.reset.writeWord 0 0x00).finish 1) :=
  ⟨rfl, rfl, rfl⟩

/-- A `NOP`, then an unknown word, then a step the run does not come to; and a run the bound ends. -/
theorem witness_RunEndsAtFirstHalt :
    defaultConfig.encoding = defaultEncoding ∧
    driveSteps defaultConfig [[.load 0 0x00, .load 1 0x50], [], []] State.reset =
      .halted .decodeFailure
        ((((State.reset.writeWord 0 0x00).writeWord 1 0x50).finish 1).takeHalt .decodeFailure) ∧
    driveSteps defaultConfig [[.load 0 0x00]] State.reset = .bounded ((State.reset.writeWord 0 0x00).finish 1) :=
  ⟨rfl, rfl, rfl⟩

/-- A storing instruction and one that stores nothing. -/
theorem witness_OnlyStoreChangesMemory :
    (exec (.st .acc (.idxD 0x00)) storeAtEnd = .next ((storeAtEnd.writeWord 0x1FF 0xC3).finish 2) ∧
      storeAddr (.st .acc (.idxD 0x00)) storeAtEnd = some 0x1FF) ∧
    (exec .nop storeAtEnd = .next (storeAtEnd.finish 1) ∧ storeAddr .nop storeAtEnd = none) :=
  ⟨⟨rfl, rfl⟩, ⟨rfl, rfl⟩⟩

theorem witness_RegistersWrittenAsTabled :
    exec (.ld .acc .ix) storeAtEnd = .next ((storeAtEnd.setReg .acc 0xFF).finish 1) ∧
    registerWritten (.ld .acc .ix) ≠ some .ix ∧
    exec .nop storeAtEnd = .next (storeAtEnd.finish 1) ∧ registerWritten .nop ≠ some .acc :=
  ⟨rfl, by decide, rfl, by decide⟩

theorem witness_FlagsWrittenAsTabled :
    exec .scf storeAtEnd = .next ((storeAtEnd.setCarry true).finish 1) ∧
    (flagsWritten .scf).v = false ∧ (flagsWritten .scf).n = false ∧ (flagsWritten .scf).z = false ∧
    exec .nop storeAtEnd = .next (storeAtEnd.finish 1) ∧ (flagsWritten .nop).c = false :=
  ⟨rfl, rfl, rfl, rfl, rfl, rfl⟩

theorem witness_BuffersWrittenOnlyByOutAndIn :
    exec .out storeAtEnd = .next (storeAtEnd.latchOutput.finish 1) ∧ (Instr.out ≠ .inp) ∧
    exec .inp storeAtEnd = .next (storeAtEnd.receiveInput.finish 1) ∧ (Instr.inp ≠ .out) :=
  ⟨rfl, by decide, rfl, by decide⟩

theorem witness_InTakesPendingWord : ({ State.reset with ibuf := ⟨true, 0x7E⟩ } : State).ibuf.flag = true := rfl

theorem witness_InWithoutWordCompletes : State.reset.ibuf.flag = false := rfl

/-- Every storing mode has an address, at the ends of both regions. -/
theorem witness_StoreWritesOneWord :
    storeAtEnd.destAddr (.absP 0x00) = some 0x000 ∧ storeAtEnd.destAddr (.absD 0xFF) = some 0x1FF ∧
    storeAtEnd.destAddr (.idxP 0xFF) = some 0x0FE ∧ storeAtEnd.destAddr (.idxD 0x00) = some 0x1FF := by decide

theorem witness_StoreWithoutAddressHalts :
    (Dest.acc = .acc ∨ Dest.acc = .ix ∨ Dest.acc = .imm) ∧ (Dest.ix = .acc ∨ Dest.ix = .ix ∨ Dest.ix = .imm) ∧
    (Dest.imm = .acc ∨ Dest.imm = .ix ∨ Dest.imm = .imm) := by decide

/-- Stored through an index, loaded back by an absolute address (S7). -/
theorem witness_StoreThenLoadReturnsValue :
    storeAtEnd.destAddr (.idxD 0x00) = some 0x1FF ∧
    exec (.st .acc (.idxD 0x00)) storeAtEnd = .next ((storeAtEnd.writeWord 0x1FF 0xC3).finish 2) ∧
    ((storeAtEnd.writeWord 0x1FF 0xC3).finish 2).operandAddr (.absD 0xFF) = some 0x1FF := ⟨rfl, rfl, rfl⟩

/-- A store at 0xFE whose next instruction stands, past the wrap, at 0x00. -/
theorem witness_NextFetchSeesStore :
    (start 0xFE 0x0F 0 (cvnz 0 0 0 0) []).destAddr (.absP 0x00) = some (programAddr (0xFE + 2)) := rfl

/-- Two words added and subtracted with a carry and a borrow between them. -/
theorem witness_CarryChainsAre16Bit :
    let s := start 0 0xFF 0x01 (cvnz 0 0 0 0) []
    let t := s.finishAlu .acc 2 (addAlu 0xFF 0x01 false)
    let t' := s.finishAlu .acc 1 (subAlu 0xFF 0x01 false)
    (exec (.add .acc (.imm 0x01)) s = .next t ∧ t.flags.c = true ∧
      exec (.adc .ix (.imm 0x02)) t = .next (t.finishAlu .ix 2 (addAlu 0x01 0x02 true))) ∧
    (exec (.sub .acc .ix) s = .next t' ∧ t'.flags.c = false ∧
      exec (.sbc .ix (.imm 0x02)) t' = .next (t'.finishAlu .ix 2 (subAlu 0x01 0x02 false))) :=
  ⟨⟨rfl, rfl, rfl⟩, ⟨rfl, rfl, rfl⟩⟩

/-- The state after `n` rotations of `ix`. -/
def rolled (s : State) : Nat → State
  | 0 => s
  | n + 1 => (rolled s n).finishAlu .ix 1 (rllAlu (rolled s n).flags ((rolled s n).reg .ix))

/-- Nine rotations in a row, from the start of V-RLL9 and from the two starts that eight restore. -/
theorem witness_NineRotationsRestore :
    ∀ s ∈ [start 0 0 0x96 (cvnz 1 0 0 0) [], start 0 0 0x00 (cvnz 0 0 0 0) [], start 0 0 0xFF (cvnz 1 0 0 0) []],
      ∀ n, exec (.rll .ix) (rolled s n) = .next (rolled s (n + 1)) := fun _ _ _ => rfl

theorem test_rll_eight_and_nine :
    ((rolled (start 0 0 0x96 (cvnz 1 0 0 0) []) 8).ix, (rolled (start 0 0 0x96 (cvnz 1 0 0 0) []) 8).flags.c) =
      (0xCB, false) ∧
    ((rolled (start 0 0 0x96 (cvnz 1 0 0 0) []) 9).ix, (rolled (start 0 0 0x96 (cvnz 1 0 0 0) []) 9).flags.c) =
      (0x96, true) := by decide +kernel

theorem witness_UnsupportedShiftsHalt :
    Instr.sla .acc ∈ [Instr.sla .acc, .srl .acc, .sll .acc, .rra .acc, .rla .acc, .rrl .acc] ∧
    Instr.rrl .ix ∈ [Instr.sla .ix, .srl .ix, .sll .ix, .rra .ix, .rla .ix, .rrl .ix] := by decide

/-- -128 against 127, where the signed and the unsigned order differ (V-SUB, second table). -/
theorem witness_CompareThenBranch :
    let s := start 0 0x80 0 (cvnz 0 0 0 0) []
    exec (.cmp .acc (.imm 0x7F)) s = .next ((s.setFlags (cvnz 0 1 0 0)).finish 2) := rfl

theorem witness_JalThenJrReturns :
    let s := start 0x10 0x55 0x66 (cvnz 1 0 0 1) [(0x10, 0x0A), (0x11, 0x80), (0x80, 0x0B)]
    fetchInstr s = some (.jal 0x80) ∧ s.readWord (programAddr 0x80) = encodeFirst defaultEncoding .jr := ⟨rfl, rfl⟩

end Sys2Proof.Tests
end

namespace Sys2Proof

/-! SUPPORT. The decoder on encoded first words, under any numbering with distinct codes (R6): the
fields the encoder writes are the fields the decoder reads, every table search finds the name it was
built from, and so each format (R42 to R45) decodes to the verdict of its own instruction. -/

open Sys2Proof.Safety

/-! ### The fields of an encoded first word -/

@[simp] theorem prefixOf_branchWord (p : EncodingParams) (c : Cond) :
    prefixOf (branchWord p c) = p.branchPrefix :=
  BitVec.extractLsb'_append_eq_left

@[simp] theorem ccField_branchWord (p : EncodingParams) (c : Cond) :
    ccField (branchWord p c) = p.condCode c :=
  BitVec.extractLsb'_append_eq_right

@[simp] theorem prefixOf_twoOperandWord (p : EncodingParams) (o : TwoOperandOp) (r : Reg) (m : Mode) :
    prefixOf (twoOperandWord p o r m) = p.twoOperandPrefix o :=
  (BitVec.extractLsb'_append_eq_of_le (by decide)).trans BitVec.extractLsb'_append_eq_left

@[simp] theorem aField_twoOperandWord (p : EncodingParams) (o : TwoOperandOp) (r : Reg) (m : Mode) :
    aField (twoOperandWord p o r m) = p.regBit r := by
  simp only [aField, twoOperandWord, BitVec.getLsbD_append]
  simp

@[simp] theorem bField_twoOperandWord (p : EncodingParams) (o : TwoOperandOp) (r : Reg) (m : Mode) :
    bField (twoOperandWord p o r m) = p.modeCode m :=
  BitVec.extractLsb'_append_eq_right

/-- Bits 7..4 stand above three more fields, whichever of bits 3 and 2 the family takes. -/
@[simp] theorem prefixOf_shrotWord (p : EncodingParams) (f : Family) (m : SubMode) (r : Reg) :
    prefixOf (shrotWord p f m r) = p.shrotPrefix := by
  have top (x y : BitVec 1) (z : BitVec 2) : prefixOf (p.shrotPrefix ++ x ++ y ++ z) = p.shrotPrefix :=
    (BitVec.extractLsb'_append_eq_of_le (by decide)).trans <|
      (BitVec.extractLsb'_append_eq_of_le (by decide)).trans BitVec.extractLsb'_append_eq_left
  unfold shrotWord
  split <;> exact top _ _ _

@[simp] theorem smField_shrotWord (p : EncodingParams) (f : Family) (m : SubMode) (r : Reg) :
    smField (shrotWord p f m r) = p.subModeCode m := by
  unfold shrotWord
  split <;> exact BitVec.extractLsb'_append_eq_right

@[simp] theorem famField_shrotWord (p : EncodingParams) (f : Family) (m : SubMode) (r : Reg) :
    famField p (shrotWord p f m r) = p.famBit f := by
  unfold famField shrotWord
  cases p.familyBit <;> simp only [BitVec.getLsbD_append] <;> simp

@[simp] theorem regOf_regBit (p : EncodingParams) (r : Reg) : p.regOf (p.regBit r) = r := by
  cases r <;> simp [EncodingParams.regOf, EncodingParams.regBit]

@[simp] theorem famOf_famBit (p : EncodingParams) (f : Family) : p.famOf (p.famBit f) = f := by
  cases f <;> simp [EncodingParams.famOf, EncodingParams.famBit]

/-- Bit 3 of a first word of four fields is its second field. -/
theorem aField_append (pre : BitVec 4) (a : Bool) (x : BitVec 1) (y : BitVec 2) :
    aField (pre ++ BitVec.ofBool a ++ x ++ y) = a := by
  simp only [aField, BitVec.getLsbD_append]
  simp

/-- The A-field names the register of an encodable shift or rotate: bit 3 is the family's where the family
fixes the register, and the register's own where it does not (R44, note D5). -/
theorem regOf_aField_shrotWord {p : EncodingParams} {f : Family} {r : Reg}
    (hr : shrotRegisterOk p f r = true) (m : SubMode) :
    p.regOf (aField (shrotWord p f m r)) = r := by
  unfold shrotRegisterOk at hr
  unfold shrotWord
  cases hf : p.familyBit with
  | bit3 =>
    rw [hf] at hr
    exact (congrArg p.regOf (aField_append ..)).trans (beq_iff_eq.mp hr).symm
  | bit2 => exact (congrArg p.regOf (aField_append ..)).trans (regOf_regBit p r)

/-! ### The table searches -/

theorem FixedOp.mem_all (o : FixedOp) : o ∈ FixedOp.all := by cases o <;> decide
theorem TwoOperandOp.mem_all (o : TwoOperandOp) : o ∈ TwoOperandOp.all := by cases o <;> decide
theorem Mode.mem_all (m : Mode) : m ∈ Mode.all := by cases m <;> decide
theorem Cond.mem_all (c : Cond) : c ∈ Cond.all := by cases c <;> decide
theorem SubMode.mem_all (m : SubMode) : m ∈ SubMode.all := by cases m <;> decide

/-- Searching a table that is one to one for the code of one of its names finds that name. -/
theorem find?_code_eq {α : Type} {n : Nat} {code : α → BitVec n}
    (inj : ∀ x y, code x = code y → x = y) {l : List α} {a : α} (ha : a ∈ l) :
    l.find? (fun x => code x == code a) = some a := by
  cases h : l.find? (fun x => code x == code a) with
  | none => simpa using List.find?_eq_none.mp h a ha
  | some b =>
    have hb : code b = code a := by simpa using List.find?_some h
    rw [inj b a hb]

theorem isFixedPrefix_fixedByte (p : EncodingParams) (o : FixedOp) :
    isFixedPrefix p (prefixOf (p.fixedByte o)) = true :=
  List.any_eq_true.mpr ⟨o, o.mem_all, beq_self_eq_true _⟩

/-- A word whose bits 7..4 no fixed byte uses is matched by its fields (R47 step 1). -/
theorem isFixedPrefix_of_ne {p : EncodingParams} {pre : BitVec 4}
    (h : ∀ o, prefixOf (p.fixedByte o) ≠ pre) : isFixedPrefix p pre = false := by
  simp [isFixedPrefix, h]

/-! ### Each format decodes to its own verdict (R47) -/

section Formats

variable {p : EncodingParams} (hp : DistinctCodes p)
include hp

/-- Format FX (R45). -/
theorem decodeFirst_fixedByte (o : FixedOp) : decodeFirst p (p.fixedByte o) = fixedVerdict o := by
  simp [decodeFirst, isFixedPrefix_fixedByte, decodeFixed, find?_code_eq hp.fixed o.mem_all]

/-- Format BR (R43). -/
theorem decodeFirst_branchWord (c : Cond) :
    decodeFirst p (branchWord p c) = .twoWord (branchInstr c) := by
  simp [decodeFirst, isFixedPrefix_of_ne hp.fixedBranch, decodeBranch, find?_code_eq hp.cond c.mem_all]

/-- Format SR (R44), for a register that the family can name. -/
theorem decodeFirst_shrotWord {f : Family} {r : Reg} (hr : shrotRegisterOk p f r = true) (m : SubMode) :
    decodeFirst p (shrotWord p f m r) = .oneWord (shrotInstr f m r) := by
  simp [decodeFirst, isFixedPrefix_of_ne hp.fixedShrot, hp.branchShrot.symm, decodeShrot,
    find?_code_eq hp.subMode m.mem_all, regOf_aField_shrotWord hr]

/-- Format AB (R42). -/
theorem decodeFirst_twoOperandWord (o : TwoOperandOp) (r : Reg) (m : Mode) :
    decodeFirst p (twoOperandWord p o r m) = twoOperandVerdict r m o := by
  simp [decodeFirst, isFixedPrefix_of_ne (hp.fixedTwoOperand · o), (hp.branchTwoOperand o).symm,
    (hp.shrotTwoOperand o).symm, decodeTwoOperand, find?_code_eq hp.twoOperand o.mem_all,
    find?_code_eq hp.mode m.mem_all]

end Formats

/-! ### The verdict on the first word of an instruction -/

/-- A verdict gives the instruction `i`: as it stands where `i` has one word, or once completed with the
second word of `i` where it has two. -/
def Verdict.Gives (v : Verdict) (i : Instr) : Prop :=
  (v = .oneWord i ∧ encodeSecond i = none) ∨
    ∃ f d, v = .twoWord f ∧ encodeSecond i = some d ∧ f d = i

/-- The verdict of a mode gives the instruction with the operand of that mode (R46). -/
theorem operandVerdict_gives {make : Operand → Instr} (b : Operand)
    (hsecond : encodeSecond (make b) = b.word?) : (operandVerdict make b.mode).Gives (make b) := by
  cases b with
  | acc => exact .inl ⟨rfl, hsecond⟩
  | ix => exact .inl ⟨rfl, hsecond⟩
  | imm d | absP d | absD d | idxP d | idxD d => exact .inr ⟨_, d, rfl, hsecond, rfl⟩

/-- The verdict of `ST` gives the store to the destination of that mode (R53, R88). -/
theorem storeVerdict_gives (r : Reg) (b : Dest) : (storeVerdict r b.mode).Gives (.st r b) := by
  cases b with
  | acc | ix | imm => exact .inl ⟨rfl, rfl⟩
  | absP d | absD d | idxP d | idxD d => exact .inr ⟨_, d, rfl, rfl, rfl⟩

section Verdicts

variable {p : EncodingParams} (hp : DistinctCodes p)
include hp

theorem fixedByte_gives {o : FixedOp} {i : Instr} (h : (fixedVerdict o).Gives i) :
    (decodeFirst p (p.fixedByte o)).Gives i := by
  rwa [decodeFirst_fixedByte hp]

theorem branchWord_gives (c : Cond) {d : Word} (hsecond : encodeSecond (branchInstr c d) = some d) :
    (decodeFirst p (branchWord p c)).Gives (branchInstr c d) :=
  .inr ⟨_, d, decodeFirst_branchWord hp c, hsecond, rfl⟩

theorem shrotWord_gives {f : Family} {r : Reg} (hr : shrotRegisterOk p f r = true) (m : SubMode)
    (hsecond : encodeSecond (shrotInstr f m r) = none) :
    (decodeFirst p (shrotWord p f m r)).Gives (shrotInstr f m r) :=
  .inl ⟨decodeFirst_shrotWord hp hr m, hsecond⟩

theorem twoOperandWord_gives {o : TwoOperandOp} {r : Reg} {m : Mode} {i : Instr}
    (h : (twoOperandVerdict r m o).Gives i) : (decodeFirst p (twoOperandWord p o r m)).Gives i := by
  rwa [decodeFirst_twoOperandWord hp]

/-- The first word of an encodable instruction decodes to a verdict that gives the instruction, under
every numbering with distinct codes. -/
theorem decodeFirst_encodeFirst_gives (i : Instr) (hwf : i.wf p = true) :
    (decodeFirst p (encodeFirst p i)).Gives i := by
  cases i with
  | nop | jr | hlt | out | inp | rcf | scf => exact fixedByte_gives hp (.inl ⟨rfl, rfl⟩)
  | jal d => exact fixedByte_gives hp (.inr ⟨_, d, rfl, rfl, rfl⟩)
  | ba d | bnz d | bzp d | bp d | bni d | bnc d | bge d | bgt d | bvf d | bz d | bn d | bzn d | bno d
  | bc d | blt d | ble d => exact branchWord_gives hp _ rfl
  | sra r | sla r | srl r | sll r | rra r | rla r | rrl r | rll r => exact shrotWord_gives hp hwf _ rfl
  | st r b => exact twoOperandWord_gives hp (storeVerdict_gives r b)
  | ld r b | sbc r b | adc r b | sub r b | add r b | eor r b | or r b | and r b | cmp r b =>
    exact twoOperandWord_gives hp (operandVerdict_gives b rfl)

end Verdicts

/-- Where the verdict on its first word gives an instruction, its words decode to it and what follows
them is left. -/
theorem decode_encode_of_gives {p : EncodingParams} {i : Instr}
    (h : (decodeFirst p (encodeFirst p i)).Gives i) (rest : List Word) :
    decode p (encode p i ++ rest) = .ok (i, rest) := by
  rcases h with ⟨hv, hsecond⟩ | ⟨f, d, hv, hsecond, rfl⟩
  · rw [encode_of_noSecond hsecond]
    exact decode_of_oneWord hv rest
  · rw [encode_of_second hsecond]
    exact decode_of_twoWord hv d rest

/-- Settles O2: whatever the numbers, the verdict on an encoded first word gives the instruction back. -/
theorem decodeEncodeAgreeForEveryNumbering : Obligations.DecodeEncodeAgreeForEveryNumbering := by
  intro p hp i rest hwf
  exact decode_encode_of_gives (decodeFirst_encodeFirst_gives hp i hwf) rest

end Sys2Proof

namespace Sys2Proof.Machine

/-! SUPPORT. What a step can do under any configuration: the memory it leaves, that it always answers a
next state, what it fetches; then the runs built of steps and outside changes. -/

open Sys2Proof.Safety

/-! ### What a meaning does to memory -/

/-- Every meaning answers a next state, and memory is as it was but for the one word `ST` writes at its
effective address (R30, R37, R59). -/
theorem exec_next_mem (i : Instr) (s : State) :
    ∃ t, exec i s = .next t ∧ (t.mem = s.mem ∨
      ∃ r b a, i = .st r b ∧ s.destAddr b = some a ∧ t.mem = s.mem.put a.toNat (s.reg r)) := by
  cases i with
  | st r b =>
    rcases execSt_cases r b s with ⟨a, ha, h⟩ | ⟨_, h⟩
    · exact ⟨_, h, .inr ⟨r, b, a, rfl, ha, rfl⟩⟩
    · exact ⟨_, h, .inl rfl⟩
  | inp => exact ⟨_, rfl, .inl (by simp)⟩
  | ba d | bnz d | bzp d | bp d | bni d | bnc d | bge d | bgt d | bvf d | bz d | bn d | bzn d | bno d
  | bc d | blt d | ble d => exact ⟨_, rfl, .inl (State.branchWith_mem ..)⟩
  | ld r b => exact ⟨_, rfl, .inl (by simp)⟩
  | sra r | rll r | sbc r b | adc r b | sub r b | add r b | eor r b | or r b | and r b =>
    exact ⟨_, rfl, .inl (State.finishAlu_mem ..)⟩
  | nop | jal d | jr | hlt | out | rcf | scf | sla r | srl r | sll r | rra r | rla r | rrl r | cmp r b =>
    exact ⟨_, rfl, .inl rfl⟩

/-- Every meaning answers a next state and keeps memory canonical. -/
theorem exec_next_canonical (i : Instr) (s : State) :
    ∃ t, exec i s = .next t ∧ (MemoryCanonical s → MemoryCanonical t) := by
  obtain ⟨t, ht, hmem | ⟨r, b, a, _, _, hmem⟩⟩ := exec_next_mem i s
  · exact ⟨t, ht, fun hs => by rwa [MemoryCanonical, hmem]⟩
  · exact ⟨t, ht, fun hs => by rw [MemoryCanonical, hmem]; exact Memory.wf_put _ a _ hs⟩

/-- The same under every configuration: a branch on an I/O condition writes no memory, wired or not. -/
theorem execWith_next_canonical (c : MachineConfig) (i : Instr) (s : State) :
    ∃ t, execWith c i s = .next t ∧ (MemoryCanonical s → MemoryCanonical t) := by
  rcases execWith_cases c i s with h | ⟨cond, d, h⟩
  · rw [h]
    exact exec_next_canonical i s
  · exact ⟨_, h, fun hs => by rwa [MemoryCanonical, State.branchWith_mem]⟩

/-! ### The step under a configuration -/

theorem stepWith_of_fetch {c : MachineConfig} {s : State} {i : Instr}
    (h : fetchInstrWith c.encoding s = some i) : stepWith c s = execWith c i s := by
  simp [stepWith, h]

theorem stepWith_of_noFetch {c : MachineConfig} {s : State}
    (h : fetchInstrWith c.encoding s = none) : stepWith c s = .next (s.takeHalt .decodeFailure) := by
  simp [stepWith, h]

/-- Every step answers a next state and keeps memory canonical, under every configuration (R59). -/
theorem stepWith_next_canonical (c : MachineConfig) (s : State) :
    ∃ t, stepWith c s = .next t ∧ (MemoryCanonical s → MemoryCanonical t) := by
  cases h : fetchInstrWith c.encoding s with
  | none => exact ⟨_, stepWith_of_noFetch h, id⟩
  | some i =>
    rw [stepWith_of_fetch h]
    exact execWith_next_canonical c i s

/-- Where the verdict on the first word at `pc` gives `i`, and the second word of `i`, if it has one,
stands after it, `i` is fetched (R62, R63). -/
theorem fetchInstrWith_of_gives {p : EncodingParams} {s : State} {i : Instr}
    (h : (decodeFirst p s.firstWord).Gives i)
    (hsecond : ∀ w2, encodeSecond i = some w2 → s.secondWord = w2) : fetchInstrWith p s = some i := by
  rcases h with ⟨hv, _⟩ | ⟨f, d, hv, hd, rfl⟩
  · simp [fetchInstrWith, hv]
  · simp [fetchInstrWith, hv, hsecond d hd]

/-- Settles O60: the words at `pc` are fetched as the instruction they encode, by the round trip of the
decoder, and the configuration enters its meaning through `BNI` and `BNO` alone. -/
theorem stepUnderEveryConfiguration : Obligations.StepUnderEveryConfiguration := by
  refine ⟨fun c hp i s hwf hfirst hsecond => ?_, execWith_of_not_io, fun c s => ?_,
    fun i s => ⟨rfl, execWith_default i s⟩⟩
  · have hgives := decodeFirst_encodeFirst_gives hp i hwf
    rw [← hfirst] at hgives
    exact stepWith_of_fetch (fetchInstrWith_of_gives hgives hsecond)
  · obtain ⟨t, ht, _⟩ := stepWith_next_canonical c s
    exact ⟨t, ht⟩

/-! ### Outside changes and driven runs -/

/-- A list of outside changes keeps memory canonical (R40, R152, R154). -/
theorem State.afterEvents_canonical (rv : ResetValues) (es : List BoundaryEvent) (s : State)
    (hs : MemoryCanonical s) : MemoryCanonical (s.afterEvents rv es) := by
  induction es generalizing s with
  | nil => exact hs
  | cons e es ih => exact ih (s.atBoundary rv e) (s.atBoundary_wf rv e hs)

/-- The halt reason of a state is the one its outcome records. -/
theorem outcome_of_haltReason? {s : State} {r : HaltReason} (h : haltReason? s = some r) :
    s.outcome = some (.halt r) := by
  unfold haltReason? at h
  split at h <;> simp_all

/-- One step of the driver loop, where the step answers `t`: the run ends at a halt, else goes on. -/
theorem driveSteps_cons_of_next {c : MachineConfig} {es : List BoundaryEvent} {s t : State}
    (ht : stepWith c (s.afterEvents c.resetValues es) = .next t) (rest : List (List BoundaryEvent)) :
    (∃ r, haltReason? t = some r ∧ driveSteps c (es :: rest) s = .halted r t) ∨
      (haltReason? t = none ∧ driveSteps c (es :: rest) s = driveSteps c rest t) := by
  cases hr : haltReason? t with
  | some r => exact .inl ⟨r, rfl, by simp [driveSteps, ht, hr]⟩
  | none => exact .inr ⟨rfl, by simp [driveSteps, ht, hr]⟩

/-- A driven run from a canonical state ends in a recorded halt or at the driver's bound, with memory
canonical. -/
theorem driveSteps_canonical (c : MachineConfig) (inputs : List (List BoundaryEvent)) (s : State)
    (hs : MemoryCanonical s) :
    (∃ r t, driveSteps c inputs s = .halted r t ∧ MemoryCanonical t ∧ t.outcome = some (.halt r)) ∨
      ∃ t, driveSteps c inputs s = .bounded t ∧ MemoryCanonical t := by
  induction inputs generalizing s with
  | nil => exact .inr ⟨s, rfl, hs⟩
  | cons es rest ih =>
    obtain ⟨t, ht, hkeep⟩ := stepWith_next_canonical c (s.afterEvents c.resetValues es)
    have hcanon : MemoryCanonical t := hkeep (s.afterEvents_canonical c.resetValues es hs)
    rcases driveSteps_cons_of_next ht rest with ⟨r, hr, hrun⟩ | ⟨_, hrun⟩
    · exact .inl ⟨r, t, hrun, hcanon, outcome_of_haltReason? hr⟩
    · rw [hrun]
      exact ih t hcanon

/-- Settles O18, by induction on the entries of the driven run. -/
theorem everyRunStaysCanonical : Obligations.EveryRunStaysCanonical := by
  intro c inputs s hs
  rcases driveSteps_canonical c inputs s hs with ⟨r, t, hrun, hcanon, hout⟩ | ⟨t, hrun, hcanon⟩
  · rw [hrun]
    exact ⟨hcanon, hout⟩
  · rw [hrun]
    exact hcanon

/-! ### Reset -/

/-- Reset writes no memory word (R151). -/
theorem sameMemory_applyReset (rv : ResetValues) (s : State) : SameMemory s (applyReset rv s) :=
  fun _ => rfl

/-- Settles O26: each field by the definition of reset, memory by the frame of reset. -/
theorem resetFromAnyState : Obligations.ResetFromAnyState :=
  ⟨fun rv s => ⟨applyReset rv s, rfl, rfl, rfl, rfl, rfl, rfl, rfl, rfl, sameMemory_applyReset rv s, rfl⟩,
    rfl⟩

/-- Settles O27: each field by the definition of the reset state. -/
theorem resetStateValues : Obligations.ResetStateValues :=
  ⟨fun _ => ⟨rfl, rfl, rfl, rfl, rfl⟩, rfl, rfl, rfl, rfl, rfl, rfl, rfl⟩

end Sys2Proof.Machine

namespace Sys2Proof.Machine

/-! SUPPORT. What a meaning writes, said once for every instruction: the frames of the registers, the
flags and the buffers (R12, R14, R17, R18) are read off it. Then the memory `ST` leaves, and what a step
reads. -/

open Sys2Proof.Safety

/-! ### The end of a step -/

/-- `t` is `u` but for `pc` and the outcome, which every step writes as it ends (R60, R77, R139). -/
def Ends (u t : State) : Prop := ∃ pc o, t = { u with pc := pc, outcome := some o }

theorem ends_finish (s : State) (len : Nat) : Ends s (s.finish len) := ⟨_, _, rfl⟩

theorem ends_jumpTo (s : State) (d : Word) : Ends s (s.jumpTo d) := ⟨_, _, rfl⟩

theorem ends_takeHalt (s : State) (r : HaltReason) : Ends s (s.takeHalt r) := ⟨_, _, rfl⟩

theorem ends_branch (s : State) (c : Cond) (d : Word) : Ends s (s.branch c d) := by
  rcases s.branch_cases c d with ⟨_, h⟩ | ⟨_, h⟩
  · exact h ▸ ends_jumpTo s d
  · exact h ▸ ends_finish s 2

section Ends

variable {u t : State} (h : Ends u t)
include h

theorem Ends.reg (r : Reg) : t.reg r = u.reg r := by
  obtain ⟨_, _, rfl⟩ := h
  cases r <;> rfl

theorem Ends.flags : t.flags = u.flags := by
  obtain ⟨_, _, rfl⟩ := h
  rfl

theorem Ends.obuf : t.obuf = u.obuf := by
  obtain ⟨_, _, rfl⟩ := h
  rfl

theorem Ends.ibuf : t.ibuf = u.ibuf := by
  obtain ⟨_, _, rfl⟩ := h
  rfl

theorem Ends.draws : t.draws = u.draws := by
  obtain ⟨_, _, rfl⟩ := h
  rfl

end Ends

/-! ### What a meaning writes -/

/-- Each flag outside the set `w` is as before. -/
def FlagsKept (w : FlagSet) (old new : Flags) : Prop :=
  (w.c = false → new.c = old.c) ∧ (w.v = false → new.v = old.v) ∧
  (w.n = false → new.n = old.n) ∧ (w.z = false → new.z = old.z)

theorem FlagsKept.refl (w : FlagSet) (f : Flags) : FlagsKept w f f :=
  ⟨fun _ => rfl, fun _ => rfl, fun _ => rfl, fun _ => rfl⟩

theorem FlagsKept.every (old new : Flags) : FlagsKept .every old new := by
  simp [FlagsKept, FlagSet.every]

/-- `RCF` and `SCF` write `C` alone (R81, R82). -/
theorem FlagsKept.carry (old : Flags) (c : Bool) :
    FlagsKept ⟨true, false, false, false⟩ old { old with c := c } := by
  simp [FlagsKept]

/-- `SRA` and `RLL` keep `V` alone (D10). -/
theorem FlagsKept.overflow (old : Flags) (c : Bool) (res : Word) :
    FlagsKept ⟨true, false, true, true⟩ old (flagsOf c old.v res) := by
  simp [FlagsKept, flagsOf]

/-- The states that instruction `i` may leave, but for `pc` and the outcome: a register and flags are
written as the tables of R12 and R14 allow `i`, the buffers by `OUT` and `IN` alone. -/
inductive Writes (i : Instr) (s : State) : State → Prop where
  | nothing : Writes i s s
  | flags (f : Flags) (hf : FlagsKept (flagsWritten i) s.flags f) : Writes i s (s.setFlags f)
  | register (r : Reg) (v : Word) (hr : registerWritten i = some r) : Writes i s (s.setReg r v)
  | result (r : Reg) (x : AluResult) (hr : registerWritten i = some r)
      (hf : FlagsKept (flagsWritten i) s.flags x.flags) : Writes i s ((s.setFlags x.flags).setReg r x.res)
  | word (a : Addr) (v : Word) : Writes i s (s.writeWord a v)
  | output (hi : i = .out) : Writes i s s.latchOutput
  | input (hi : i = .inp) : Writes i s s.receiveInput

/-- Every meaning writes what its instruction may write, and ends the step. -/
theorem exec_writes (i : Instr) (s : State) : ∃ u t, exec i s = .next t ∧ Ends u t ∧ Writes i s u := by
  cases i with
  | nop => exact ⟨_, _, rfl, ends_finish .., .nothing⟩
  | jr => exact ⟨_, _, rfl, ends_jumpTo .., .nothing⟩
  | hlt | sla r | srl r | sll r | rra r | rla r | rrl r => exact ⟨_, _, rfl, ends_takeHalt .., .nothing⟩
  | ba d | bnz d | bzp d | bp d | bni d | bnc d | bge d | bgt d | bvf d | bz d | bn d | bzn d | bno d
  | bc d | blt d | ble d => exact ⟨_, _, rfl, ends_branch .., .nothing⟩
  | rcf | scf => exact ⟨_, _, rfl, ends_finish .., .flags _ (.carry ..)⟩
  | cmp r b => exact ⟨_, _, rfl, ends_finish .., .flags _ (.every ..)⟩
  | jal d => exact ⟨_, _, rfl, ends_jumpTo .., .register .acc _ rfl⟩
  | ld r b => exact ⟨_, _, rfl, ends_finish .., .register r _ rfl⟩
  | sra r | rll r => exact ⟨_, _, rfl, ends_finish .., .result r _ rfl (.overflow ..)⟩
  | sbc r b | adc r b | sub r b | add r b | eor r b | or r b | and r b =>
    exact ⟨_, _, rfl, ends_finish .., .result r _ rfl (.every ..)⟩
  | st r b =>
    rcases execSt_cases r b s with ⟨a, _, h⟩ | ⟨_, h⟩
    · exact ⟨_, _, h, ends_finish .., .word a _⟩
    · exact ⟨_, _, h, ends_takeHalt .., .nothing⟩
  | out => exact ⟨_, _, rfl, ends_finish .., .output rfl⟩
  | inp => exact ⟨_, _, rfl, ends_finish .., .input rfl⟩

/-- The same of a given answer. -/
theorem writes_of_exec {i : Instr} {s t : State} (h : exec i s = .next t) :
    ∃ u, Ends u t ∧ Writes i s u := by
  obtain ⟨u, t', ht, hend, hw⟩ := exec_writes i s
  cases h.symm.trans ht
  exact ⟨u, hend, hw⟩

/-! ### The frames of the registers, the flags and the buffers -/

/-- Neither case of `IN` writes `ix` (R85). -/
theorem State.reg_receiveInput (s : State) {r : Reg} (h : r ≠ .acc) : s.receiveInput.reg r = s.reg r := by
  cases r with
  | acc => exact absurd rfl h
  | ix => exact s.receiveInput_ix

theorem Writes.reg {i : Instr} {s u : State} (h : Writes i s u) {r : Reg}
    (hr : registerWritten i ≠ some r) : u.reg r = s.reg r := by
  have ne_written {r' : Reg} (hr' : registerWritten i = some r') : r ≠ r' := fun e => hr (e ▸ hr')
  cases h with
  | nothing | flags | word | output => simp
  | register r' v hr' => exact State.reg_setReg_other _ _ _ _ (ne_written hr')
  | result r' x hr' => exact (State.reg_setReg_other _ _ _ _ (ne_written hr')).trans (State.reg_setFlags ..)
  | input hi => exact s.reg_receiveInput fun e => hr (by rw [hi, e]; rfl)

theorem Writes.flagsKept {i : Instr} {s u : State} (h : Writes i s u) :
    FlagsKept (flagsWritten i) s.flags u.flags := by
  cases h with
  | flags f hf => exact hf
  | result r x _ hf => simpa using hf
  | nothing | register | word | output | input => simpa using FlagsKept.refl ..

theorem Writes.obuf {i : Instr} {s u : State} (h : Writes i s u) (hi : i ≠ .out) : u.obuf = s.obuf := by
  cases h with
  | output hout => exact absurd hout hi
  | nothing | flags | register | result | word | input => simp

theorem Writes.ibuf_draws {i : Instr} {s u : State} (h : Writes i s u) (hi : i ≠ .inp) :
    u.ibuf = s.ibuf ∧ u.draws = s.draws := by
  cases h with
  | input hinp => exact absurd hinp hi
  | nothing | flags | register | result | word | output => simp

/-- `IN` keeps the word of the input buffer, and clears its flag or leaves it clear (R85). -/
theorem State.receiveInput_ibuf (s : State) :
    s.receiveInput.ibuf.data = s.ibuf.data ∧ (s.receiveInput.ibuf.flag = true → s.ibuf.flag = true) := by
  rcases s.receiveInput_cases with ⟨hf, h⟩ | ⟨_, h⟩
  · rw [h]
    exact ⟨rfl, fun _ => hf⟩
  · rw [h]
    exact ⟨rfl, id⟩

theorem Writes.ibuf_data_flag {i : Instr} {s u : State} (h : Writes i s u) :
    u.ibuf.data = s.ibuf.data ∧ (u.ibuf.flag = true → s.ibuf.flag = true) := by
  cases h with
  | input => exact s.receiveInput_ibuf
  | nothing | flags | register | result | word | output => simp

/-- Settles O21: of all that a meaning may write, a register only as R12's table says. -/
theorem registersWrittenAsTabled : Obligations.RegistersWrittenAsTabled := by
  intro i s t h r hr
  obtain ⟨u, hend, hw⟩ := writes_of_exec h
  rw [hend.reg, hw.reg hr]

/-- Settles O22: of all that a meaning may write, flags only as R14's table says. -/
theorem flagsWrittenAsTabled : Obligations.FlagsWrittenAsTabled := by
  intro i s t h
  obtain ⟨u, hend, hw⟩ := writes_of_exec h
  rw [hend.flags]
  exact hw.flagsKept

/-- Settles O23: of all that a meaning may write, the buffers only by `OUT` and `IN`. -/
theorem buffersWrittenOnlyByOutAndIn : Obligations.BuffersWrittenOnlyByOutAndIn := by
  intro i s t h
  obtain ⟨u, hend, hw⟩ := writes_of_exec h
  rw [hend.obuf, hend.ibuf, hend.draws]
  exact ⟨hw.obuf, hw.ibuf_draws, hw.ibuf_data_flag⟩

/-! ### Memory -/

theorem State.readWord_of_mem {s t : State} (h : t.mem = s.mem) (a : Addr) : t.readWord a = s.readWord a := by
  rw [State.readWord, State.readWord, h]

/-- The word just written is the word read (R29, R30). -/
@[simp] theorem State.readWord_writeWord_same (s : State) (a : Addr) (v : Word) :
    (s.writeWord a v).readWord a = v := by
  simp [State.readWord]

/-- A write leaves every other address as it was (R30). -/
theorem State.readWord_writeWord_other (s : State) {a b : Addr} (v : Word) (h : b ≠ a) :
    (s.writeWord a v).readWord b = s.readWord b := by
  simp [State.readWord, Memory.cell_put_other _ _ _ v (mt BitVec.eq_of_toNat_eq h)]

/-- Only `ST` has a store address, and it is the one its meaning writes to (R37, R87). -/
theorem exists_st_of_storeAddr {i : Instr} {s : State} {a : Addr} (h : storeAddr i s = some a) :
    ∃ r b, i = .st r b ∧ s.destAddr b = some a := by
  cases i with
  | st r b => exact ⟨r, b, rfl, h⟩
  | _ => exact absurd h (by simp [storeAddr])

/-- Settles O20: memory is as it was but for the word `ST` writes, and that word is the register's. -/
theorem onlyStoreChangesMemory : Obligations.OnlyStoreChangesMemory := by
  refine fun i s t h => ⟨fun a ha => ?_, fun a ha => ?_⟩
  · obtain ⟨t', ht, hmem | ⟨r, b, a', rfl, ha', hmem⟩⟩ := exec_next_mem i s
    · cases h.symm.trans ht
      exact State.readWord_of_mem hmem a
    · cases h.symm.trans ht
      have hne : a ≠ a' := fun e => ha (e ▸ ha')
      rw [State.readWord_of_mem (s := s.writeWord a' (s.reg r)) hmem, State.readWord_writeWord_other _ _ hne]
  · obtain ⟨r, b, rfl, hb⟩ := exists_st_of_storeAddr ha
    refine ⟨r, b, rfl, ?_⟩
    rcases execSt_cases r b s with ⟨a', ha', hst⟩ | ⟨hnone, _⟩
    · cases h.symm.trans hst
      cases hb.symm.trans ha'
      simp
    · exact absurd (hb.symm.trans hnone) (by simp)

/-! ### What a step reads -/

/-- Settles O14: both words a fetch reads stand in the program region, at `pc` and one further. -/
theorem fetchSeesProgramRegionOnly : Obligations.FetchSeesProgramRegionOnly := by
  intro s s' hpc hread
  have hfirst : s'.firstWord = s.firstWord := by
    unfold State.firstWord
    rw [hpc, hread]
  have hsecond : s'.secondWord = s.secondWord := by
    unfold State.secondWord
    rw [hpc, hread]
  unfold fetchInstr fetchInstrWith
  rw [hfirst, hsecond]

/-- No meaning reads the last outcome, and every meaning writes it. -/
theorem exec_ignores_outcome (i : Instr) (s : State) (o : Option StepOutcome) :
    exec i { s with outcome := o } = exec i s := by
  cases i with
  | inp => cases h : s.ibuf.flag <;> simp [exec, execInp, State.receiveInput, State.finish, h]
  | st r b => cases b <;> rfl
  | ld r b | sra r | rll r | sbc r b | adc r b | sub r b | add r b | eor r b | or r b | and r b =>
    cases r <;> rfl
  | _ => rfl

/-- Settles O13: neither the fetch nor any meaning reads the last outcome. -/
theorem stepIgnoresLastOutcome : Obligations.StepIgnoresLastOutcome := by
  intro s o
  have hfetch : fetchInstr { s with outcome := o } = fetchInstr s :=
    fetchSeesProgramRegionOnly s _ rfl fun _ => rfl
  rw [step_eq, step_eq, hfetch]
  cases fetchInstr s with
  | none => rfl
  | some i => exact exec_ignores_outcome i s o

end Sys2Proof.Machine

namespace Sys2Proof

/-! SUPPORT. The decoder on any first word: how many words its verdict takes (R53), and of which format
the verdict is (R47). -/

/-- The words a verdict takes: two where it calls for a second word, else one (R53, R63). -/
def Verdict.words : Verdict → Nat
  | .unknown => 1
  | .oneWord _ => 1
  | .twoWord _ => 2

/-- The decoder takes the words R53 counts: a table of 256 entries against the formula. -/
theorem words_decodeFirst (w1 : Word) : (decodeFirst defaultEncoding w1).words = lengthOfWord w1 := by
  revert w1
  decide

/-- The verdicts the decoder can reach on a first word, one case per format (R42 to R45), and none on a
word that is no fixed byte and fits no format. -/
inductive Decoded (p : EncodingParams) (w1 : Word) : Verdict → Prop where
  | unknown (hfix : ∀ o, p.fixedByte o ≠ w1) : Decoded p w1 .unknown
  | fixed (o : FixedOp) (ho : p.fixedByte o = w1) : Decoded p w1 (fixedVerdict o)
  | branch (c : Cond) (hpre : prefixOf w1 = p.branchPrefix) : Decoded p w1 (.twoWord (branchInstr c))
  | shrot (f : Family) (m : SubMode) (r : Reg) (hpre : prefixOf w1 = p.shrotPrefix) :
      Decoded p w1 (.oneWord (shrotInstr f m r))
  | twoOperand (o : TwoOperandOp) (r : Reg) (m : Mode) (hpre : prefixOf w1 = p.twoOperandPrefix o) :
      Decoded p w1 (twoOperandVerdict r m o)

theorem decodeFixed_decoded (p : EncodingParams) (w1 : Word) : Decoded p w1 (decodeFixed p w1) := by
  unfold decodeFixed
  split
  · next o ho => exact .fixed o (by simpa using List.find?_some ho)
  · next hnone => exact .unknown fun o => by simpa using List.find?_eq_none.mp hnone o o.mem_all

section Fields

variable {p : EncodingParams} {w1 : Word} (hfix : ∀ o, p.fixedByte o ≠ w1)
include hfix

theorem decodeBranch_decoded (hpre : prefixOf w1 = p.branchPrefix) :
    Decoded p w1 (decodeBranch p w1) := by
  unfold decodeBranch
  split
  · exact .branch _ hpre
  · exact .unknown hfix

theorem decodeShrot_decoded (hpre : prefixOf w1 = p.shrotPrefix) :
    Decoded p w1 (decodeShrot p w1) := by
  unfold decodeShrot
  split
  · exact .shrot _ _ _ hpre
  · exact .unknown hfix

theorem decodeTwoOperand_decoded : Decoded p w1 (decodeTwoOperand p w1) := by
  unfold decodeTwoOperand
  split
  · next o m ho _ => exact .twoOperand o _ m (Eq.symm (by simpa using List.find?_some ho))
  · exact .unknown hfix

end Fields

/-- The decoder reaches no other verdict, by the steps of R47. -/
theorem decodeFirst_decoded (p : EncodingParams) (w1 : Word) : Decoded p w1 (decodeFirst p w1) := by
  unfold decodeFirst
  split
  · exact decodeFixed_decoded p w1
  · next hnot =>
    have hfix : ∀ o, p.fixedByte o ≠ w1 := by
      rintro o rfl
      exact hnot (isFixedPrefix_fixedByte p o)
    split
    · next hpre => exact decodeBranch_decoded hfix (beq_iff_eq.mp hpre)
    · split
      · next hpre => exact decodeShrot_decoded hfix (beq_iff_eq.mp hpre)
      · exact decodeTwoOperand_decoded hfix

end Sys2Proof

namespace Sys2Proof.Machine

/-! SUPPORT. Where `pc` stands after a step (R77, R139): every verdict but those of `JAL`, `JR` and the
branches moves it past the words it takes. -/

/-! ### The step by the verdict on the first word -/

/-- The step once its first word has the verdict `v` (R63, R78). -/
def runVerdict (v : Verdict) (s : State) : Host.Outcome State Fault Refusal :=
  match v with
  | .unknown => .next (s.takeHalt .decodeFailure)
  | .oneWord i => exec i s
  | .twoWord f => exec (f s.secondWord) s

theorem step_eq_runVerdict (s : State) :
    step s = runVerdict (decodeFirst defaultEncoding s.firstWord) s := by
  rw [step_eq]
  unfold fetchInstr fetchInstrWith
  cases decodeFirst defaultEncoding s.firstWord <;> rfl

/-! ### Verdicts that move past their words -/

/-- Executing `i` moves `pc` past `len` words. -/
def Advances (i : Instr) (len : Nat) : Prop :=
  ∀ s t, exec i s = .next t → t.pc = s.pc + BitVec.ofNat 8 len

/-- A step with the verdict `v` moves `pc` past the words of `v`. -/
def RunsOn (v : Verdict) : Prop :=
  ∀ s t, runVerdict v s = .next t → t.pc = s.pc + BitVec.ofNat 8 v.words

/-- What one answer shows of a meaning holds of every answer, since there is only one. -/
theorem advances_of_next {i : Instr} {len : Nat}
    (h : ∀ s, ∃ t, exec i s = .next t ∧ t.pc = s.pc + BitVec.ofNat 8 len) : Advances i len := by
  intro s t ht
  obtain ⟨t', ht', hpc⟩ := h s
  cases ht.symm.trans ht'
  exact hpc

theorem advances_of_takeHalt {i : Instr} {r : HaltReason} (h : ∀ s, exec i s = .next (s.takeHalt r)) :
    Advances i 1 :=
  advances_of_next fun s => ⟨_, h s, rfl⟩

theorem runsOn_unknown : RunsOn .unknown := by
  intro s t h
  cases h
  rfl

theorem runsOn_oneWord {i : Instr} (h : Advances i 1) : RunsOn (.oneWord i) := h

theorem runsOn_twoWord {f : Word → Instr} (h : ∀ d, Advances (f d) 2) : RunsOn (.twoWord f) :=
  fun s => h s.secondWord s

/-- The fixed instructions that do not jump, `HLT` included (R45, R77, R140). -/
theorem runsOn_fixedVerdict {o : FixedOp} (hjal : o ≠ .jal) (hjr : o ≠ .jr) :
    RunsOn (fixedVerdict o) := by
  cases o with
  | jal => exact absurd rfl hjal
  | jr => exact absurd rfl hjr
  | hlt => exact runsOn_oneWord (advances_of_takeHalt fun _ => rfl)
  | inp => exact runsOn_oneWord (advances_of_next fun s => ⟨_, rfl, by simp⟩)
  | nop | out | rcf | scf => exact runsOn_oneWord (advances_of_next fun _ => ⟨_, rfl, rfl⟩)

/-- The two shifts that execute and the six that halt: one word each (R77, R111). -/
theorem runsOn_shrot (f : Family) (m : SubMode) (r : Reg) : RunsOn (.oneWord (shrotInstr f m r)) := by
  apply runsOn_oneWord
  cases f with
  | shift =>
    cases m with
    | rightArithmetic => exact advances_of_next fun _ => ⟨_, rfl, State.finishAlu_pc ..⟩
    | leftArithmetic | rightLogical | leftLogical => exact advances_of_takeHalt fun _ => rfl
  | rotate =>
    cases m with
    | leftLogical => exact advances_of_next fun _ => ⟨_, rfl, State.finishAlu_pc ..⟩
    | rightArithmetic | leftArithmetic | rightLogical => exact advances_of_takeHalt fun _ => rfl

/-- A verdict takes the words of the operand its mode makes (R46, R53). -/
theorem runsOn_operandVerdict {make : Operand → Instr} (h : ∀ b, Advances (make b) b.length) (m : Mode) :
    RunsOn (operandVerdict make m) := by
  cases m with
  | acc | ix => exact runsOn_oneWord (h _)
  | imm | absP | absD | idxP | idxD => exact runsOn_twoWord fun _ => h _

/-- `ST` takes two words where it stores, one where it halts (R53, R88). -/
theorem advances_st (r : Reg) (b : Dest) : Advances (.st r b) b.length := by
  cases b with
  | acc | ix | imm => exact advances_of_takeHalt fun _ => rfl
  | absP d | absD d | idxP d | idxD d => exact advances_of_next fun _ => ⟨_, rfl, rfl⟩

theorem runsOn_storeVerdict (r : Reg) (m : Mode) : RunsOn (storeVerdict r m) := by
  cases m with
  | acc | ix | imm => exact runsOn_oneWord (advances_st r _)
  | absP | absD | idxP | idxD => exact runsOn_twoWord fun _ => advances_st r _

theorem runsOn_twoOperandVerdict (r : Reg) (m : Mode) (o : TwoOperandOp) :
    RunsOn (twoOperandVerdict r m o) := by
  cases o with
  | st => exact runsOn_storeVerdict r m
  | ld => exact runsOn_operandVerdict (fun _ => advances_of_next fun _ => ⟨_, rfl, by simp⟩) m
  | cmp => exact runsOn_operandVerdict (fun _ => advances_of_next fun _ => ⟨_, rfl, rfl⟩) m
  | sbc | adc | sub | add | eor | or | and =>
    exact runsOn_operandVerdict
      (fun _ => advances_of_next fun _ => ⟨_, rfl, State.finishAlu_pc ..⟩) m

/-- A branch goes to the second word, or two words further (R113). -/
theorem exec_branchInstr (c : Cond) (d : Word) (s : State) :
    exec (branchInstr c d) s = .next (s.branch c d) := by
  cases c <;> rfl

theorem State.branch_pc (s : State) (c : Cond) (d : Word) :
    (s.branch c d).pc = d ∨ (s.branch c d).pc = s.pc + 2 := by
  rcases s.branch_cases c d with ⟨_, h⟩ | ⟨_, h⟩
  · exact .inl (h ▸ rfl)
  · exact .inr (h ▸ rfl)

/-! ### Where `pc` stands, by the first word -/

/-- The rule of R77 and R139 for a first word `w1`: `JAL`, `JR`, the branches, all others. -/
def PcRule (w1 : Word) (s t : State) : Prop :=
  if w1 = 0x0A then t.pc = s.secondWord
  else if w1 = 0x0B then t.pc = s.acc
  else if prefixOf w1 = 0x3 then t.pc = s.secondWord ∨ t.pc = s.pc + 2
  else t.pc = s.pc + BitVec.ofNat 8 (lengthOfWord w1)

theorem pcRule_of_branch {w1 : Word} {s t : State} (hpre : prefixOf w1 = 0x3)
    (h : t.pc = s.secondWord ∨ t.pc = s.pc + 2) : PcRule w1 s t := by
  have hA : w1 ≠ 0x0A := by rintro rfl; exact absurd hpre (by decide)
  have hB : w1 ≠ 0x0B := by rintro rfl; exact absurd hpre (by decide)
  rwa [PcRule, if_neg hA, if_neg hB, if_pos hpre]

theorem pcRule_of_runsOn {v : Verdict} {w1 : Word} {s t : State} (hrun : RunsOn v)
    (hlen : v.words = lengthOfWord w1) (h : runVerdict v s = .next t)
    (hw : w1 ≠ 0x0A ∧ w1 ≠ 0x0B ∧ prefixOf w1 ≠ 0x3) : PcRule w1 s t := by
  obtain ⟨hA, hB, h3⟩ := hw
  rw [PcRule, if_neg hA, if_neg hB, if_neg h3, ← hlen]
  exact hrun s t h

/-- A shift, a rotate or a two-operand word, by its bits 7..4, is no jump and no branch (R49). -/
theorem not_jump_of_prefix {w1 : Word} (h : 0x3 < prefixOf w1) :
    w1 ≠ 0x0A ∧ w1 ≠ 0x0B ∧ prefixOf w1 ≠ 0x3 := by
  refine ⟨?_, ?_, fun e => absurd (e ▸ h) (by decide)⟩ <;> rintro rfl <;> exact absurd h (by decide)

/-- Every verdict the decoder can reach follows the rule. -/
theorem pcRule_of_decoded {v : Verdict} {w1 : Word} {s t : State} (hdec : Decoded defaultEncoding w1 v)
    (hlen : v.words = lengthOfWord w1) (h : runVerdict v s = .next t) : PcRule w1 s t := by
  cases hdec with
  | unknown hfix =>
    have h3 : prefixOf w1 ≠ 0x3 := fun e => by simp [Verdict.words, lengthOfWord, e] at hlen
    exact pcRule_of_runsOn runsOn_unknown hlen h ⟨(hfix .jal).symm, (hfix .jr).symm, h3⟩
  | fixed o ho =>
    subst ho
    cases o with
    | jal | jr =>
      cases h
      rfl
    | nop | hlt | out | inp | rcf | scf =>
      exact pcRule_of_runsOn (runsOn_fixedVerdict (by decide) (by decide)) hlen h (by decide)
  | branch c hpre =>
    cases (exec_branchInstr c s.secondWord s).symm.trans h
    exact pcRule_of_branch hpre (s.branch_pc c _)
  | shrot f m r hpre =>
    exact pcRule_of_runsOn (runsOn_shrot f m r) hlen h (not_jump_of_prefix (by rw [hpre]; decide))
  | twoOperand o r m hpre =>
    have hgt : 0x3 < defaultEncoding.twoOperandPrefix o := by cases o <;> decide
    exact pcRule_of_runsOn (runsOn_twoOperandVerdict r m o) hlen h (not_jump_of_prefix (hpre ▸ hgt))

/-- Settles O15, by the verdict on the first word. -/
theorem pcAfterEveryStep : Obligations.PcAfterEveryStep := by
  intro s t h
  rw [step_eq_runVerdict] at h
  exact pcRule_of_decoded (decodeFirst_decoded ..) (words_decodeFirst _) h

end Sys2Proof.Machine

namespace Sys2Proof.Machine

/-! SUPPORT. Memory as the instructions see it: the addresses the modes name, the word `ST` leaves and
`LD` and the fetch find there, and the canonical form along the spec's own step. -/

open Sys2Proof.Safety

/-! ### The step with the spec's configuration -/

/-- Every step answers a next state and keeps memory canonical (R59). -/
theorem step_next_canonical (s : State) :
    ∃ t, step s = .next t ∧ (MemoryCanonical s → MemoryCanonical t) :=
  stepWith_next_canonical defaultConfig s

/-- Settles O16: the state a step answers is the one that keeps memory canonical, there being no other. -/
theorem stepKeepsMemoryCanonical : Obligations.StepKeepsMemoryCanonical := by
  intro s t hs ht
  obtain ⟨t', ht', hkeep⟩ := step_next_canonical s
  cases ht.symm.trans ht'
  exact hkeep hs

/-- Settles O10: a fetch that fails halts, and every meaning answers a next state. -/
theorem everyStepCompletes : Obligations.EveryStepCompletes := by
  intro s
  obtain ⟨t, ht, _⟩ := step_next_canonical s
  exact ⟨t, ht⟩

/-! ### A write -/

/-- Settles O24: every word by the rules of a write, which replaces no field but `mem`. -/
theorem writeThenRead : Obligations.WriteThenRead :=
  fun s a v => ⟨s.readWord_writeWord_same a v, fun _ hb => s.readWord_writeWord_other v hb, rfl⟩

/-! ### Addresses and operands -/

/-- The sum with `ix` wraps at 256, so its carry never reaches the region bit (R26, R71). -/
theorem State.toNat_indexed (s : State) (d : Word) :
    (s.indexed d).toNat = (s.ix.toNat + d.toNat) % 256 :=
  BitVec.toNat_add s.ix d

/-- An operand with an address has the value of the word there (R69 to R72). -/
theorem State.operandValue_of_operandAddr {s : State} {b : Operand} {a : Addr}
    (h : s.operandAddr b = some a) : s.operandValue b = s.readWord a := by
  cases b with
  | acc | ix | imm d => cases h
  | absP d | absD d | idxP d | idxD d =>
    cases h
    rfl

/-- Settles O25: the address of each memory mode by its region and low byte, its value by the address. -/
theorem addressesAndOperandValues : Obligations.AddressesAndOperandValues := by
  intro s d
  refine ⟨⟨_, rfl, rfl, toNat_programAddr d, State.operandValue_of_operandAddr rfl⟩,
    ⟨_, rfl, rfl, toNat_dataAddr d, State.operandValue_of_operandAddr rfl⟩,
    ⟨_, rfl, rfl, ?_, State.operandValue_of_operandAddr rfl⟩,
    ⟨_, rfl, rfl, ?_, State.operandValue_of_operandAddr rfl⟩,
    ⟨rfl, rfl, rfl⟩, ⟨rfl, rfl, rfl⟩, ⟨rfl, rfl, rfl⟩⟩
  · rw [toNat_programAddr, s.toNat_indexed]
  · rw [toNat_dataAddr, s.toNat_indexed]

/-! ### `ST`, and what reads the word after it -/

/-- A destination with an address belongs to a two-word `ST` (R53, R88). -/
theorem length_of_destAddr {s : State} {b : Dest} {a : Addr} (h : s.destAddr b = some a) :
    b.length = 2 := by
  cases b with
  | acc | ix | imm => cases h
  | absP d | absD d | idxP d | idxD d => rfl

/-- `ST` with an effective address writes the register there and goes two words on (R77, R87). -/
theorem exec_st_of_destAddr (r : Reg) {b : Dest} {s : State} {a : Addr} (h : s.destAddr b = some a) :
    exec (.st r b) s = .next ((s.writeWord a (s.reg r)).finish 2) := by
  rcases execSt_cases r b s with ⟨a', ha', hst⟩ | ⟨hnone, _⟩
  · cases h.symm.trans ha'
    rwa [length_of_destAddr h] at hst
  · cases h.symm.trans hnone

/-- `LD` puts the B operand, read before the write, into its register (R86). -/
theorem exec_ld (r : Reg) (b : Operand) (s : State) :
    exec (.ld r b) s = .next ((s.setReg r (s.operandValue b)).finish b.length) :=
  rfl

/-- Settles O37: the load's operand is the word at the address the store wrote. -/
theorem storeThenLoadReturnsValue : Obligations.StoreThenLoadReturnsValue := by
  intro r r' b b' s t a hdest hst hload
  cases (exec_st_of_destAddr r hdest).symm.trans hst
  refine ⟨_, exec_ld r' b' _, ?_⟩
  rw [State.reg_finish, State.reg_setReg_same, State.operandValue_of_operandAddr hload,
    State.readWord_finish, State.readWord_writeWord_same]

/-- Settles O38: the store leaves `pc` at the very address it wrote, where the next step fetches. -/
theorem nextFetchSeesStore : Obligations.NextFetchSeesStore := by
  intro r b s hdest
  refine ⟨_, exec_st_of_destAddr r hdest, rfl, ?_⟩
  rw [State.firstWord, State.finish_pc, State.writeWord_pc, State.readWord_finish]
  exact State.readWord_writeWord_same ..

end Sys2Proof.Machine

namespace Sys2Proof

/-! SUPPORT. The spec's own numbers (R48 to R52): their codes are distinct, so the round trip of every such
numbering is theirs; and the other direction, what each verdict of the decoder encodes back to. -/

open Sys2Proof.Safety

/-! ### The spec's numbers are distinct -/

/-- A table that lists no code twice is one to one on the names it lists. -/
theorem code_injective_of_nodup {α : Type} {n : Nat} {code : α → BitVec n} {l : List α}
    (hall : ∀ a, a ∈ l) (hnodup : (l.map code).Nodup) (x y : α) (h : code x = code y) : x = y :=
  List.inj_on_of_nodup_map hnodup (hall x) (hall y) h

/-- The fixed bytes stand under the prefixes 0, 1 and 2 (R49). -/
theorem prefixOf_fixedByte_lt (o : FixedOp) : prefixOf (defaultEncoding.fixedByte o) < 0x3 := by
  cases o <;> decide

/-- The two-operand prefixes are 6 to 15 (R49). -/
theorem lt_twoOperandPrefix (o : TwoOperandOp) : 0x5 < defaultEncoding.twoOperandPrefix o := by
  cases o <;> decide

/-- The numbers of R48 to R52 give different instructions different first words. -/
theorem distinctCodes_defaultEncoding : DistinctCodes defaultEncoding where
  fixed := code_injective_of_nodup FixedOp.mem_all (by decide)
  twoOperand := code_injective_of_nodup TwoOperandOp.mem_all (by decide)
  mode := code_injective_of_nodup Mode.mem_all (by decide)
  cond := code_injective_of_nodup Cond.mem_all (by decide)
  subMode := code_injective_of_nodup SubMode.mem_all (by decide)
  fixedBranch o := BitVec.ne_of_lt (prefixOf_fixedByte_lt o)
  fixedShrot o := BitVec.ne_of_lt (BitVec.lt_trans (prefixOf_fixedByte_lt o) (by decide))
  fixedTwoOperand o o' := BitVec.ne_of_lt <|
    BitVec.lt_trans (prefixOf_fixedByte_lt o) (BitVec.lt_trans (by decide) (lt_twoOperandPrefix o'))
  branchShrot := by decide
  branchTwoOperand o := BitVec.ne_of_lt (BitVec.lt_trans (by decide) (lt_twoOperandPrefix o))
  shrotTwoOperand o := BitVec.ne_of_lt (BitVec.lt_trans (by decide) (lt_twoOperandPrefix o))

/-- Settles O1: the round trip of every numbering with distinct codes, at the spec's numbers. -/
theorem decodeEncodeAgree : Obligations.DecodeEncodeAgree :=
  decodeEncodeAgreeForEveryNumbering defaultEncoding distinctCodes_defaultEncoding

/-- Settles O6, by running the decoder on the eight words. -/
theorem writtenWordsDecode : Obligations.WrittenWordsDecode :=
  ⟨rfl, rfl, rfl, rfl, rfl, rfl, rfl, rfl⟩

/-! ### The decoder on a list of words, taken apart -/

/-- What decodes is the verdict on its first word: a one-word instruction, or a two-word instruction
completed with the word that follows (R47, R56). -/
theorem decode_ok_cases {p : EncodingParams} {w1 : Word} {rest rest' : List Word} {i : Instr}
    (h : decode p (w1 :: rest) = .ok (i, rest')) :
    (decodeFirst p w1 = .oneWord i ∧ rest = rest') ∨
      ∃ f d, decodeFirst p w1 = .twoWord f ∧ f d = i ∧ rest = d :: rest' := by
  cases hv : decodeFirst p w1 with
  | unknown => exact absurd ((decode_of_unknown hv rest).symm.trans h) (by simp)
  | oneWord j =>
    cases (decode_of_oneWord hv rest).symm.trans h
    exact .inl ⟨rfl, rfl⟩
  | twoWord f =>
    cases rest with
    | nil => simp [decode, hv] at h
    | cons d tail =>
      cases (decode_of_twoWord hv d tail).symm.trans h
      exact .inr ⟨f, d, rfl, rfl, rfl⟩

/-- A list of words is refused as unknown for its first word's sake alone (R54). -/
theorem decodeFirst_of_decode_unknown {p : EncodingParams} {w1 : Word} {rest : List Word}
    (h : decode p (w1 :: rest) = .error .unknownInstruction) : decodeFirst p w1 = .unknown := by
  cases hv : decodeFirst p w1 with
  | unknown => rfl
  | oneWord i => exact absurd ((decode_of_oneWord hv rest).symm.trans h) (by simp)
  | twoWord f => cases rest <;> simp [decode, hv] at h

/-- Settles O5: the words taken are those of the verdict, which R53 counts. -/
theorem lengthFollowsFirstWord : Obligations.LengthFollowsFirstWord := by
  intro w1 rest rest' i h
  rcases decode_ok_cases h with ⟨hv, rfl⟩ | ⟨f, d, hv, _, rfl⟩
  · rw [← words_decodeFirst, hv, List.length_cons, Verdict.words, Nat.add_comm]
  · rw [← words_decodeFirst, hv, List.length_cons, List.length_cons, Verdict.words]
    omega

/-! ### What a verdict encodes back to -/

/-- The encoder writes `i` as the first word `w1` and the second word `second?`, and `i` has an encoding. -/
def EncodedAs (p : EncodingParams) (i : Instr) (w1 : Word) (second? : Option Word) : Prop :=
  i.wf p = true ∧ encodeFirst p i = w1 ∧ encodeSecond i = second?

/-- Whatever instruction the verdict completes to, the encoder writes it as `w1`, followed by just the word
it was completed with. -/
def Verdict.Reencodes (p : EncodingParams) (w1 : Word) : Verdict → Prop
  | .unknown => True
  | .oneWord i => EncodedAs p i w1 none
  | .twoWord f => ∀ d, EncodedAs p (f d) w1 (some d)

section Verdicts

variable (p : EncodingParams)

theorem fixedVerdict_reencodes (o : FixedOp) : (fixedVerdict o).Reencodes p (p.fixedByte o) := by
  cases o with
  | jal => exact fun _ => ⟨rfl, rfl, rfl⟩
  | nop | jr | hlt | out | inp | rcf | scf => exact ⟨rfl, rfl, rfl⟩

theorem branchVerdict_reencodes (c : Cond) :
    (Verdict.twoWord (branchInstr c)).Reencodes p (branchWord p c) := by
  cases c <;> exact fun _ => ⟨rfl, rfl, rfl⟩

theorem shrotVerdict_reencodes {f : Family} {r : Reg} (hr : shrotRegisterOk p f r = true) (m : SubMode) :
    (Verdict.oneWord (shrotInstr f m r)).Reencodes p (shrotWord p f m r) := by
  cases f <;> cases m <;> exact ⟨hr, rfl, rfl⟩

theorem operandVerdict_reencodes {make : Operand → Instr} {word : Mode → Word}
    (h : ∀ b, EncodedAs p (make b) (word b.mode) b.word?) (m : Mode) :
    (operandVerdict make m).Reencodes p (word m) := by
  cases m with
  | acc | ix => exact h _
  | imm | absP | absD | idxP | idxD => exact fun _ => h _

theorem storeVerdict_reencodes (r : Reg) (m : Mode) :
    (storeVerdict r m).Reencodes p (twoOperandWord p .st r m) := by
  cases m with
  | acc | ix | imm => exact ⟨rfl, rfl, rfl⟩
  | absP | absD | idxP | idxD => exact fun _ => ⟨rfl, rfl, rfl⟩

theorem twoOperandVerdict_reencodes (r : Reg) (m : Mode) (o : TwoOperandOp) :
    (twoOperandVerdict r m o).Reencodes p (twoOperandWord p o r m) := by
  cases o with
  | st => exact storeVerdict_reencodes p r m
  | ld | sbc | adc | sub | add | eor | or | and | cmp =>
    exact operandVerdict_reencodes p (word := twoOperandWord p _ r) (fun _ => ⟨rfl, rfl, rfl⟩) m

end Verdicts

/-! ### A first word is put together again from its fields (R42 to R44) -/

theorem prefixOf_append_ccField (w1 : Word) : prefixOf w1 ++ ccField w1 = w1 := by
  revert w1
  decide

theorem prefixOf_append_aField_bField (w1 : Word) :
    prefixOf w1 ++ BitVec.ofBool (aField w1) ++ bField w1 = w1 := by
  revert w1
  decide

/-- The fields of a shift/rotate word leave out bit 2 (R44). -/
theorem prefixOf_append_aField_smField (w1 : Word) :
    prefixOf w1 ++ BitVec.ofBool (aField w1) ++ 0#1 ++ smField w1 = w1 &&& 0xFB := by
  revert w1
  decide

@[simp] theorem regBit_regOf (p : EncodingParams) (a : Bool) : p.regBit (p.regOf a) = a := by
  unfold EncodingParams.regOf
  cases a <;> cases h : p.aSelectsIx <;> simp [EncodingParams.regBit, h]

@[simp] theorem famBit_famOf (p : EncodingParams) (a : Bool) : p.famBit (p.famOf a) = a := by
  unfold EncodingParams.famOf
  cases a <;> cases h : p.rotateBit <;> simp [EncodingParams.famBit, h]

/-! ### Each format encodes back to the word it was read from -/

section Formats

variable {p : EncodingParams} {w1 : Word}

theorem decodeFixed_reencodes : (decodeFixed p w1).Reencodes p w1 := by
  unfold decodeFixed
  split
  · next o ho =>
    have hbyte : p.fixedByte o = w1 := by simpa using List.find?_some ho
    exact hbyte ▸ fixedVerdict_reencodes p o
  · trivial

theorem decodeBranch_reencodes (hpre : prefixOf w1 = p.branchPrefix) :
    (decodeBranch p w1).Reencodes p w1 := by
  unfold decodeBranch
  split
  · next c hc =>
    have hcode : p.condCode c = ccField w1 := by simpa using List.find?_some hc
    have hword : branchWord p c = w1 := by rw [branchWord, ← hpre, hcode, prefixOf_append_ccField]
    exact hword ▸ branchVerdict_reencodes p c
  · trivial

/-- With the family in bit 3 the encoder writes 0 in bit 2, which the decoder does not read (R44, log
entry 10). -/
theorem decodeShrot_reencodes (hbit : p.familyBit = .bit3) (hpre : prefixOf w1 = p.shrotPrefix) :
    (decodeShrot p w1).Reencodes p (w1 &&& 0xFB) := by
  unfold decodeShrot
  split
  · next m hm =>
    have hcode : p.subModeCode m = smField w1 := by simpa using List.find?_some hm
    have hfam : famField p w1 = aField w1 := by simp [famField, hbit, aField]
    have hreg : shrotRegisterOk p (p.famOf (famField p w1)) (p.regOf (aField w1)) = true := by
      simp [shrotRegisterOk, hbit, hfam]
    have hword : shrotWord p (p.famOf (famField p w1)) m (p.regOf (aField w1)) = w1 &&& 0xFB := by
      simp only [shrotWord, hbit, hfam, famBit_famOf, hcode, ← hpre, prefixOf_append_aField_smField]
    exact hword ▸ shrotVerdict_reencodes p hreg m
  · trivial

theorem decodeTwoOperand_reencodes : (decodeTwoOperand p w1).Reencodes p w1 := by
  unfold decodeTwoOperand
  split
  · next o m ho hm =>
    have hpre : p.twoOperandPrefix o = prefixOf w1 := by simpa using List.find?_some ho
    have hmode : p.modeCode m = bField w1 := by simpa using List.find?_some hm
    have hword : twoOperandWord p o (p.regOf (aField w1)) m = w1 := by
      rw [twoOperandWord, hpre, regBit_regOf, hmode, prefixOf_append_aField_bField]
    have hback := twoOperandVerdict_reencodes p (p.regOf (aField w1)) m o
    rwa [hword] at hback
  · trivial

/-- The first word as the encoder would write it: itself, but bit 2 of a shift/rotate word is 0 (R44, log
entry 10). -/
def clearUnreadBit (p : EncodingParams) (w1 : Word) : Word :=
  if prefixOf w1 = p.shrotPrefix then w1 &&& 0xFB else w1

theorem clearUnreadBit_of_shrot (hpre : prefixOf w1 = p.shrotPrefix) : clearUnreadBit p w1 = w1 &&& 0xFB :=
  if_pos hpre

theorem clearUnreadBit_of_ne (hpre : prefixOf w1 ≠ p.shrotPrefix) : clearUnreadBit p w1 = w1 :=
  if_neg hpre

/-- The verdict on a first word encodes back to it, by the steps of R47. -/
theorem decodeFirst_reencodes (hp : DistinctCodes p) (hbit : p.familyBit = .bit3) (w1 : Word) :
    (decodeFirst p w1).Reencodes p (clearUnreadBit p w1) := by
  unfold decodeFirst
  split
  · next hfix =>
    obtain ⟨o, _, ho⟩ := List.any_eq_true.mp hfix
    rw [clearUnreadBit_of_ne (beq_iff_eq.mp ho ▸ hp.fixedShrot o)]
    exact decodeFixed_reencodes
  · split
    · next hpre =>
      rw [beq_iff_eq] at hpre
      rw [clearUnreadBit_of_ne (hpre ▸ hp.branchShrot)]
      exact decodeBranch_reencodes hpre
    · split
      · next hpre =>
        rw [beq_iff_eq] at hpre
        rw [clearUnreadBit_of_shrot hpre]
        exact decodeShrot_reencodes hbit hpre
      · next hpre =>
        rw [beq_iff_eq] at hpre
        rw [clearUnreadBit_of_ne hpre]
        exact decodeTwoOperand_reencodes

end Formats

/-- A shift or rotate has no second word, so 4 in bits 7..4 calls for none (R53). -/
theorem prefixOf_ne_of_twoWord {w1 : Word} {f : Word → Instr}
    (hv : decodeFirst defaultEncoding w1 = .twoWord f) : prefixOf w1 ≠ 0x4 := by
  intro hpre
  have hjal : w1 = 0x0A := by
    simpa [hv, Verdict.words, lengthOfWord, hpre] using words_decodeFirst w1
  subst hjal
  exact absurd hpre (by decide)

/-- Settles O3: the instruction is one its verdict completes to, so it encodes back as the verdict does. -/
theorem decodedWordsReencode : Obligations.DecodedWordsReencode := by
  intro w1 rest rest' i h
  have hback := decodeFirst_reencodes distinctCodes_defaultEncoding rfl w1
  rcases decode_ok_cases h with ⟨hv, rfl⟩ | ⟨f, d, hv, rfl, rfl⟩
  · rw [hv] at hback
    obtain ⟨hwf, hfirst, hsecond⟩ := hback
    exact ⟨hwf, hfirst, by rw [encode_of_noSecond hsecond]; rfl⟩
  · rw [hv] at hback
    obtain ⟨hwf, hfirst, hsecond⟩ := hback d
    exact ⟨hwf, hfirst, by rw [encode_of_second hsecond]; rfl⟩

/-- Settles O4: a verdict that takes a second word encodes back to the whole of its first word. -/
theorem secondWordIsTheOperand : Obligations.SecondWordIsTheOperand := by
  intro w1 f hv w2
  have hback := decodeFirst_reencodes distinctCodes_defaultEncoding rfl w1
  rw [hv, clearUnreadBit_of_ne (prefixOf_ne_of_twoWord hv)] at hback
  obtain ⟨_, hfirst, hsecond⟩ := hback w2
  exact ⟨hsecond, hfirst⟩

end Sys2Proof

namespace Sys2Proof.Machine

/-! SUPPORT. How a step answers (R60): every instruction either halts, and then only takes that halt, or
answers `Continue`; the table of R54 says which from the first word. Then the runs of the driver (R143),
which go on while the table says `Continue`. -/

open Sys2Proof.Safety

/-! ### How a meaning answers -/

/-- `x` is the answer at `s` of a step with the outcome `o`: for a halt the state that takes it, else some
next state that records `Continue` (R60, R139, R140). -/
def AnswersWith (x : Host.Outcome State Fault Refusal) (s : State) : StepOutcome → Prop
  | .halt r => x = .next (s.takeHalt r)
  | .continues => ∃ t, x = .next t ∧ t.outcome = some .continues

/-- Whatever the outcome, it is the one recorded in the next state. -/
theorem AnswersWith.outcome {x : Host.Outcome State Fault Refusal} {s : State} {o : StepOutcome}
    (h : AnswersWith x s o) : ∃ t, x = .next t ∧ t.outcome = some o := by
  cases o with
  | continues => exact h
  | halt r => exact ⟨_, h, rfl⟩

/-- The outcome of each instruction: `HLT`, the six shifts and rotates that are not implemented and `ST`
without an effective address halt (R80, R88, R111), all others continue. -/
def instrResponse : Instr → StepOutcome
  | .hlt => .halt .haltInstruction
  | .sla _ | .srl _ | .sll _ | .rra _ | .rla _ | .rrl _ => .halt .unsupportedSubMode
  | .st _ .acc | .st _ .ix | .st _ .imm => .halt .operandFetchFailure
  | _ => .continues

/-- Every meaning answers with the outcome of its instruction. -/
theorem exec_answers (i : Instr) (s : State) : AnswersWith (exec i s) s (instrResponse i) := by
  cases i with
  | hlt | sla r | srl r | sll r | rra r | rla r | rrl r => rfl
  | st r b =>
    cases b with
    | acc | ix | imm => rfl
    | absP d | absD d | idxP d | idxD d => exact ⟨_, rfl, rfl⟩
  | ba d | bnz d | bzp d | bp d | bni d | bnc d | bge d | bgt d | bvf d | bz d | bn d | bzn d | bno d
  | bc d | blt d | ble d => exact ⟨_, rfl, State.branchWith_outcome ..⟩
  | sra r | rll r | sbc r b | adc r b | sub r b | add r b | eor r b | or r b | and r b =>
    exact ⟨_, rfl, State.finishAlu_outcome ..⟩
  | nop | jal d | jr | out | inp | rcf | scf | ld r b | cmp r b => exact ⟨_, rfl, rfl⟩

/-- The same under every configuration: the branches on an I/O condition continue, wired or not. -/
theorem execWith_answers (c : MachineConfig) (i : Instr) (s : State) :
    AnswersWith (execWith c i s) s (instrResponse i) := by
  cases i with
  | bni d | bno d => exact ⟨_, rfl, State.branchWith_outcome ..⟩
  | _ =>
    rw [execWith_of_not_io c _ s (by simp) (by simp)]
    exact exec_answers _ s

/-- No instruction of two words halts (R88, R111, R140). -/
theorem instrResponse_of_second {i : Instr} {d : Word} (h : encodeSecond i = some d) :
    instrResponse i = .continues := by
  cases i with
  | hlt | sla r | srl r | sll r | rra r | rla r | rrl r => cases h
  | st r b =>
    cases b with
    | acc | ix | imm => cases h
    | absP d | absD d | idxP d | idxD d => rfl
  | _ => rfl

/-! ### How a step answers -/

/-- The outcome of a step by the verdict on its first word (R54). -/
def verdictResponse : Verdict → StepOutcome
  | .unknown => .halt .decodeFailure
  | .oneWord i => instrResponse i
  | .twoWord _ => .continues

/-- The decoder agrees with the table of R54 on each of the 256 first words. -/
theorem verdictResponse_decodeFirst (w1 : Word) :
    verdictResponse (decodeFirst defaultEncoding w1) = responseOfWord w1 := by
  revert w1
  decide

/-- Every step under the spec's numbers answers with the outcome of the table. -/
theorem stepWith_answers {c : MachineConfig} (hc : c.encoding = defaultEncoding) (s : State) :
    AnswersWith (stepWith c s) s (responseOfWord s.firstWord) := by
  rw [← verdictResponse_decodeFirst]
  cases hv : decodeFirst defaultEncoding s.firstWord with
  | unknown => exact stepWith_of_noFetch (by simp [fetchInstrWith, hc, hv])
  | oneWord i =>
    rw [stepWith_of_fetch (i := i) (by simp [fetchInstrWith, hc, hv])]
    exact execWith_answers c i s
  | twoWord f =>
    obtain ⟨hsecond, _⟩ := secondWordIsTheOperand _ f hv s.secondWord
    rw [stepWith_of_fetch (i := f s.secondWord) (by simp [fetchInstrWith, hc, hv]), verdictResponse,
      ← instrResponse_of_second hsecond]
    exact execWith_answers c _ s

/-- Settles O11: the state a step answers is the one that records the outcome of the table. -/
theorem outcomeFollowsFirstWord : Obligations.OutcomeFollowsFirstWord := by
  intro s t ht
  obtain ⟨t', ht', hout⟩ := (stepWith_answers (c := defaultConfig) rfl s).outcome
  cases ht.symm.trans ht'
  exact hout

/-- Settles O9: the fetch fails, so the step takes the halt, which leaves all but `pc` and the outcome. -/
theorem unknownWordHalts : Obligations.UnknownWordHalts := by
  intro s rest h
  have hfetch : fetchInstr s = none := fetchInstr_of_unknown s (decodeFirst_of_decode_unknown h)
  exact ⟨_, stepWith_of_noFetch (c := defaultConfig) hfetch, ⟨rfl, rfl⟩,
    State.reg_takeHalt s _, rfl, State.readWord_takeHalt s _, rfl, rfl, rfl⟩

/-- The outcome of a step at a word just put there is the one the table gives that word. -/
theorem outcomeHolding_eq (s : State) (w : Word) : outcomeHolding s w = some (responseOfWord w) := by
  obtain ⟨t, ht, hout⟩ :=
    (stepWith_answers (c := defaultConfig) rfl (s.writeWord (programAddr s.pc) w)).outcome
  have hfirst : (s.writeWord (programAddr s.pc) w).firstWord = w := State.readWord_writeWord_same ..
  have hstep : step (s.writeWord (programAddr s.pc) w) = .next t := ht
  rw [outcomeHolding, hstep, ← hfirst]
  exact hout

/-! ### The census of the first words (R54) -/

/-- The sixteen first words with `k` in bits 7..4, in order (R42 to R44). -/
def prefixRow (k : Nat) : List Word := (List.range 16).map fun j => BitVec.ofNat 8 (k * 16 + j)

/-- The numbers below `n * m` in `n` rows of `m`. -/
theorem range_mul_eq_flatMap (n m : Nat) :
    List.range (n * m) = (List.range n).flatMap fun k => (List.range m).map (k * m + ·) := by
  induction n with
  | zero => simp
  | succ n ih => rw [Nat.succ_mul, List.range_add, ih, List.range_succ]; simp

theorem firstWords_eq_flatMap : firstWords = (List.range 16).flatMap prefixRow := by
  rw [firstWords, show List.range 256 = _ from range_mul_eq_flatMap 16 16, List.map_flatMap]
  simp only [List.map_map]
  rfl

/-- A census of the first words is taken by bits 7..4. -/
theorem countP_firstWords (q : Word → Bool) :
    firstWords.countP q = ((List.range 16).map fun k => (prefixRow k).countP q).sum := by
  rw [firstWords_eq_flatMap, List.countP_flatMap]
  rfl

/-- Settles O7: the census of the steps is the census of the table of R54. -/
theorem firstWordCensus : Obligations.FirstWordCensus := by
  intro s
  simp only [outcomeHolding_eq, Option.some.injEq, countP_firstWords]
  exact ⟨by decide, by decide, by decide, by decide, by decide⟩

/-! ### Runs of the driver -/

section Runs

variable {c : MachineConfig}

theorem stateAfter_cons_of_next {es : List BoundaryEvent} {s t : State}
    (ht : stepWith c (s.afterEvents c.resetValues es) = .next t) (rest : List (List BoundaryEvent)) :
    stateAfter c (es :: rest) s = stateAfter c rest t := by
  simp [stateAfter, ht]

theorem continuesThrough_nil (s : State) : ContinuesThrough c [] s :=
  fun _ _ _ heq => absurd heq (by simp)

/-- A run of steps that continue is a first step that continues and such a run from the state after it. -/
theorem continuesThrough_cons {es : List BoundaryEvent} {rest : List (List BoundaryEvent)} {s t : State}
    (ht : stepWith c (s.afterEvents c.resetValues es) = .next t) :
    ContinuesThrough c (es :: rest) s ↔
      responseOfWord (s.afterEvents c.resetValues es).firstWord = .continues ∧ ContinuesThrough c rest t := by
  constructor
  · intro h
    refine ⟨?_, fun pre es' rest' heq => ?_⟩
    · obtain ⟨u, hu, hresp⟩ := h [] es rest rfl
      cases hu
      exact hresp
    · rw [← stateAfter_cons_of_next ht]
      exact h (es :: pre) es' rest' (by rw [heq, List.cons_append])
  · rintro ⟨hresp, h⟩ pre es' rest' heq
    cases pre with
    | nil =>
      cases heq
      exact ⟨s, rfl, hresp⟩
    | cons e pre =>
      cases heq
      rw [stateAfter_cons_of_next ht]
      exact h pre es' rest' rfl

variable (hc : c.encoding = defaultEncoding)
include hc

/-- The driver goes through steps that continue to the state they lead to (R143). -/
theorem driveSteps_append_of_continuesThrough {pre : List (List BoundaryEvent)} {s u : State}
    (hcont : ContinuesThrough c pre s) (hu : stateAfter c pre s = some u)
    (rest : List (List BoundaryEvent)) : driveSteps c (pre ++ rest) s = driveSteps c rest u := by
  induction pre generalizing s with
  | nil =>
    cases hu
    rfl
  | cons es pre ih =>
    obtain ⟨t, ht, hout⟩ := (stepWith_answers hc (s.afterEvents c.resetValues es)).outcome
    obtain ⟨hresp, hcont'⟩ := (continuesThrough_cons ht).mp hcont
    have hnone : haltReason? t = none := by simp [haltReason?, hout, hresp]
    have hu' : stateAfter c pre t = some u := (stateAfter_cons_of_next ht pre).symm.trans hu
    rw [← ih hcont' hu']
    simp [driveSteps, ht, hnone]

/-- At a first word that halts the driver ends the run, whatever entries follow (R143). -/
theorem driveSteps_cons_of_halt {es : List BoundaryEvent} {u : State} {r : HaltReason}
    (hresp : responseOfWord (u.afterEvents c.resetValues es).firstWord = .halt r)
    (rest : List (List BoundaryEvent)) :
    driveSteps c (es :: rest) u = .halted r ((u.afterEvents c.resetValues es).takeHalt r) := by
  have hans := stepWith_answers hc (u.afterEvents c.resetValues es)
  rw [hresp] at hans
  have hstep : stepWith c (u.afterEvents c.resetValues es) =
      .next ((u.afterEvents c.resetValues es).takeHalt r) := hans
  simp [driveSteps, hstep, haltReason?]

/-- Either every step of the entries continues, or one is the first to halt. -/
theorem continuesThrough_or_first_halt (inputs : List (List BoundaryEvent)) (s : State) :
    (ContinuesThrough c inputs s ∧ ∃ u, stateAfter c inputs s = some u) ∨
      ∃ pre es rest u r, inputs = pre ++ es :: rest ∧ ContinuesThrough c pre s ∧
        stateAfter c pre s = some u ∧
        responseOfWord (u.afterEvents c.resetValues es).firstWord = .halt r := by
  induction inputs generalizing s with
  | nil => exact .inl ⟨continuesThrough_nil s, s, rfl⟩
  | cons es inputs ih =>
    cases hresp : responseOfWord (s.afterEvents c.resetValues es).firstWord with
    | halt r => exact .inr ⟨[], es, inputs, s, r, rfl, continuesThrough_nil s, rfl, hresp⟩
    | continues =>
      obtain ⟨t, ht, _⟩ := (stepWith_answers hc (s.afterEvents c.resetValues es)).outcome
      rcases ih t with ⟨hcont, u, hu⟩ | ⟨pre, es', rest, u, r, rfl, hcont, hu, hhalt⟩
      · exact .inl ⟨(continuesThrough_cons ht).mpr ⟨hresp, hcont⟩, u,
          (stateAfter_cons_of_next ht _).trans hu⟩
      · exact .inr ⟨es :: pre, es', rest, u, r, rfl, (continuesThrough_cons ht).mpr ⟨hresp, hcont⟩,
          (stateAfter_cons_of_next ht _).trans hu, hhalt⟩

end Runs

/-- Settles O19: the driver goes through the steps that continue and ends at the first that halts, if any. -/
theorem runEndsAtFirstHalt : Obligations.RunEndsAtFirstHalt := by
  intro c hc inputs s t
  rcases continuesThrough_or_first_halt hc inputs s with
    ⟨hcont, u, hu⟩ | ⟨pre, es, rest, u, r, rfl, hcont, hu, hhalt⟩
  · have hrun : driveSteps c inputs s = .bounded u := by
      simpa [driveSteps] using driveSteps_append_of_continuesThrough hc hcont hu []
    rw [hrun]
    refine ⟨fun _ h => (nomatch h), fun h => ?_⟩
    cases h
    exact ⟨hcont, hu⟩
  · have hrun (more : List (List BoundaryEvent)) : driveSteps c (pre ++ es :: rest ++ more) s =
        .halted r ((u.afterEvents c.resetValues es).takeHalt r) := by
      rw [List.append_assoc, driveSteps_append_of_continuesThrough hc hcont hu]
      exact driveSteps_cons_of_halt hc hhalt (rest ++ more)
    have hend := hrun []
    rw [List.append_nil] at hend
    rw [hend]
    refine ⟨fun r' h => ?_, fun h => nomatch h⟩
    cases h
    exact ⟨⟨pre, es, rest, u, rfl, hcont, hu, hhalt, rfl⟩, hrun⟩

end Sys2Proof.Machine

namespace Sys2Proof.Machine

/-! SUPPORT. The step with the spec's configuration, in terms of the decoder. -/

/-- Settles O8: what the two words at `pc` decode to is what is fetched, and under the spec's configuration
the step is the meaning of what is fetched. -/
theorem stepRunsDecodedInstruction : Obligations.StepRunsDecodedInstruction := by
  intro s i rest h
  have hfetch : fetchInstr s = some i := fetchInstr_of_decode s i rest h
  calc step s = execWith defaultConfig i s := stepWith_of_fetch (c := defaultConfig) hfetch
    _ = exec i s := execWith_default i s

end Sys2Proof.Machine

namespace Sys2Proof.Machine

/-! SUPPORT. The frame of a step that writes no more than `pc` and the outcome as it ends, and `NOP`,
`RCF` and `SCF` by it (R79, R81, R82). -/

open Sys2Proof.Safety

theorem Ends.mem {u t : State} (h : Ends u t) : t.mem = u.mem := by
  obtain ⟨_, _, rfl⟩ := h
  rfl

/-- However a step ends, ending it disturbs nothing. -/
theorem Ends.undisturbed {u t : State} (h : Ends u t) : Undisturbed u t :=
  ⟨h.reg, h.flags, State.readWord_of_mem h.mem, h.obuf, h.ibuf, h.draws⟩

theorem advanced_finish (s : State) (len : Nat) : Advanced len s (s.finish len) :=
  ⟨s.finish_pc len, s.finish_outcome len⟩

theorem exec_nop (s : State) : exec .nop s = .next (s.finish 1) := rfl

theorem exec_rcf (s : State) : exec .rcf s = .next ((s.setCarry false).finish 1) := rfl

theorem exec_scf (s : State) : exec .scf s = .next ((s.setCarry true).finish 1) := rfl

/-- Settles O28: `NOP` only ends its step. -/
theorem nopOnlyAdvances : Obligations.NopOnlyAdvances :=
  fun s => ⟨s.finish 1, exec_nop s, advanced_finish s 1, (ends_finish s 1).undisturbed⟩

/-- A meaning that sets the carry to `c` and ends writes `C` alone, whichever value `c` is. -/
theorem writesOnlyCarry_of_exec {i : Instr} {s : State} {c : Bool}
    (hexec : exec i s = .next ((s.setCarry c).finish 1)) :
    ∃ t, exec i s = .next t ∧ t.flags = ⟨c, s.flags.v, s.flags.n, s.flags.z⟩ ∧
      Advanced 1 s t ∧ SameRegs s t ∧ SameMemory s t ∧ SamePorts s t := by
  obtain ⟨hregs, hflags, hmem, hports⟩ := (ends_finish (s.setCarry c) 1).undisturbed
  refine ⟨_, hexec, hflags.trans (s.setCarry_flags c), advanced_finish (s.setCarry c) 1, ?_, ?_, hports⟩
  · exact fun r => (hregs r).trans (s.reg_setCarry c r)
  · exact fun a => (hmem a).trans (s.readWord_setCarry c a)

/-- Settles O30: `RCF` and `SCF` are the two values of the carry. -/
theorem carryInstructionsWriteOnlyCarry : Obligations.CarryInstructionsWriteOnlyCarry :=
  fun s => ⟨writesOnlyCarry_of_exec (exec_rcf s), writesOnlyCarry_of_exec (exec_scf s)⟩

end Sys2Proof.Machine

namespace Sys2Proof.Machine

/-! SUPPORT. The two port transfers: what `OUT` latches, the two cases of `IN`'s transfer as equations,
and the frame that both cases of `IN` share (R84, R85). -/

open Sys2Proof.Safety

theorem exec_out (s : State) : exec .out s = .next (s.latchOutput.finish 1) := rfl

theorem exec_inp (s : State) : exec .inp s = .next (s.receiveInput.finish 1) := rfl

theorem State.receiveInput_of_pending {s : State} (hpending : s.ibuf.flag = true) :
    s.receiveInput = { s with acc := s.ibuf.data, ibuf := ⟨false, s.ibuf.data⟩ } := by
  rcases s.receiveInput_cases with ⟨_, htake⟩ | ⟨hempty, _⟩
  · exact htake
  · exact nomatch hpending.symm.trans hempty

theorem State.receiveInput_of_empty {s : State} (hempty : s.ibuf.flag = false) :
    s.receiveInput = { s with acc := Config.drawnWord s.draws, draws := s.draws + 1 } := by
  rcases s.receiveInput_cases with ⟨hpending, _⟩ | ⟨_, hdraw⟩
  · exact nomatch hpending.symm.trans hempty
  · exact hdraw

/-- Whether or not a word is pending, `IN` advances and leaves `ix`, the flags, memory and the output
buffer alone: the two cases differ in `acc`, `ibuf` and the count of draws only. -/
theorem finish_receiveInput_frame (s : State) :
    Advanced 1 s (s.receiveInput.finish 1) ∧ (s.receiveInput.finish 1).ix = s.ix ∧
      (s.receiveInput.finish 1).flags = s.flags ∧ SameMemory s (s.receiveInput.finish 1) ∧
      (s.receiveInput.finish 1).obuf = s.obuf := by
  have hadvanced : Advanced 1 s (s.receiveInput.finish 1) := by simp [Advanced]
  exact ⟨hadvanced, s.receiveInput_ix, s.receiveInput_flags, s.readWord_receiveInput, s.receiveInput_obuf⟩

/-- Settles O31: the latch writes `obuf` alone, and the end of the step disturbs none of it. -/
theorem outLatchesAccumulator : Obligations.OutLatchesAccumulator := by
  intro s
  have hadvanced : Advanced 1 s (s.latchOutput.finish 1) := advanced_finish s.latchOutput 1
  obtain ⟨hregs, hflags, hmem, hobuf, hibuf, hdraws⟩ := (ends_finish s.latchOutput 1).undisturbed
  refine ⟨_, exec_out s, hobuf.trans s.latchOutput_obuf, hadvanced, ?_, hflags, ?_, hibuf, hdraws⟩
  · exact fun r => (hregs r).trans (s.reg_latchOutput r)
  · exact fun a => (hmem a).trans (s.readWord_latchOutput a)

/-- Settles O32: the pending case of the transfer gives `acc` and `ibuf`, the shared frame the rest. -/
theorem inTakesPendingWord : Obligations.InTakesPendingWord := by
  intro s hpending
  have htake := State.receiveInput_of_pending hpending
  obtain ⟨hadvanced, hix, hflags, hmem, hobuf⟩ := finish_receiveInput_frame s
  have hacc : s.receiveInput.acc = s.ibuf.data := by rw [htake]
  have hibuf : s.receiveInput.ibuf = ⟨false, s.ibuf.data⟩ := by rw [htake]
  have hdraws : s.receiveInput.draws = s.draws := by rw [htake]
  exact ⟨_, exec_inp s, hacc, hibuf, hadvanced, hix, hflags, hmem, hobuf, hdraws⟩

/-- Settles O33: the drawing case of the transfer keeps `ibuf` and counts one draw, the shared frame gives
the rest. -/
theorem inWithoutWordCompletes : Obligations.InWithoutWordCompletes := by
  intro s hempty
  have hdraw := State.receiveInput_of_empty hempty
  have hibuf : s.receiveInput.ibuf = s.ibuf := by rw [hdraw]
  have hdraws : s.receiveInput.draws = s.draws + 1 := by rw [hdraw]
  exact ⟨_, exec_inp s, hibuf, hdraws, finish_receiveInput_frame s⟩

end Sys2Proof.Machine

namespace Sys2Proof.Machine

/-! SUPPORT. `LD` and `ST` in full: the one register or the one word they write, and the frame that the
rules of a register write, of a memory write and of the end of a step leave around it (R86 to R88). -/

open Sys2Proof.Safety

/-- `ST` without an effective address takes the halt (R88). -/
theorem exec_st_of_noDestAddr (r : Reg) {b : Dest} {s : State} (h : s.destAddr b = none) :
    exec (.st r b) s = .next (s.takeHalt .operandFetchFailure) := by
  rcases execSt_cases r b s with ⟨_, hsome, _⟩ | ⟨_, hst⟩
  · cases h.symm.trans hsome
  · exact hst

theorem halted_takeHalt (s : State) (h : HaltReason) : Halted h s (s.takeHalt h) :=
  ⟨s.takeHalt_pc h, s.takeHalt_outcome h⟩

/-- A write that leaves `pc` alone may come before the end of a step. -/
theorem advanced_finish_of_pc {s u : State} (hpc : u.pc = s.pc) (len : Nat) :
    Advanced len s (u.finish len) :=
  ⟨hpc ▸ u.finish_pc len, u.finish_outcome len⟩

/-- Settles O34: the register write sets `r` alone, to the operand of the state before it, and the end of
the step disturbs none of it. -/
theorem loadWritesRegister : Obligations.LoadWritesRegister := by
  intro r b s
  have hpc := s.setReg_pc r (s.operandValue b)
  obtain ⟨hregs, hflags, hmem, hobuf, hibuf, hdraws⟩ :=
    (ends_finish (s.setReg r (s.operandValue b)) b.length).undisturbed
  refine ⟨_, exec_ld r b s, ?_, ?_, ?_, advanced_finish_of_pc hpc b.length, ?_, ?_⟩
  · exact (hregs r).trans (s.reg_setReg_same r _)
  · exact fun r' hne => (hregs r').trans (s.reg_setReg_other r r' _ hne)
  · exact hflags.trans (s.setReg_flags r _)
  · exact fun a => (hmem a).trans (s.readWord_setReg r _ a)
  · exact ⟨hobuf.trans (s.setReg_obuf r _), hibuf.trans (s.setReg_ibuf r _),
      hdraws.trans (s.setReg_draws r _)⟩

/-- Settles O35: the memory write sets the word at `a` alone, and the end of the step disturbs none of
it. -/
theorem storeWritesOneWord : Obligations.StoreWritesOneWord := by
  intro r b s a hdest
  have hpc := s.writeWord_pc a (s.reg r)
  obtain ⟨hregs, hflags, hmem, hports⟩ := (ends_finish (s.writeWord a (s.reg r)) 2).undisturbed
  refine ⟨_, exec_st_of_destAddr r hdest, ?_, ?_, ?_, hflags, advanced_finish_of_pc hpc 2, hports⟩
  · exact (hmem a).trans (s.readWord_writeWord_same a _)
  · exact fun a' hne => (hmem a').trans (s.readWord_writeWord_other _ hne)
  · exact fun r' => (hregs r').trans (s.reg_writeWord a _ r')

/-- Settles O36: each of the three modes has no effective address, so the store takes the halt, which
disturbs nothing. -/
theorem storeWithoutAddressHalts : Obligations.StoreWithoutAddressHalts := by
  intro r b s hmode
  have hnone : s.destAddr b = none := by rcases hmode with rfl | rfl | rfl <;> rfl
  exact ⟨_, exec_st_of_noDestAddr r hnone, halted_takeHalt s _, (ends_takeHalt s _).undisturbed⟩

end Sys2Proof.Machine

namespace Sys2Proof.Machine

/-! SUPPORT. The adder, and subtraction through it (R90, R93). Each is held by one equation on unbounded
integers: the result and the carry are the two digits, base 256, of the sum, and the result less 256 for a
borrow is the difference. Results, carries, overflow and the 16-bit chains follow from these by linear
arithmetic. -/

open Sys2Proof.Safety

/-! ### A word, its sign bit and its complement -/

/-- The sign bit of a word, as a bound on its unsigned reading (R7). -/
theorem getLsbD_seven (w : Word) : w.getLsbD 7 = decide (128 ≤ w.toNat) :=
  w.msb_eq_decide

/-- The sign bit weighs -128 in the signed reading, 128 in the unsigned (R7). -/
theorem toInt_eq_toNat_sub (w : Word) : w.toInt = (w.toNat : Int) - 256 * (w.toNat / 128 : Nat) := by
  rw [w.toInt_eq_toNat_cond]
  split <;> omega

theorem toInt_compl (w : Word) : (~~~w).toInt = -w.toInt - 1 := by
  rw [toInt_eq_toNat_sub, toInt_eq_toNat_sub, BitVec.toNat_not]
  omega

theorem toNat_bnot (b : Bool) : (!b).toNat = 1 - b.toNat := by
  cases b <;> rfl

/-- A carry as the word that is added to or taken from a result. -/
theorem toNat_setWidth_ofBool (b : Bool) : ((BitVec.ofBool b).setWidth 8).toNat = b.toNat := by
  cases b <;> rfl

/-! ### The adder -/

/-- The carry is the ninth bit of the sum. -/
theorem addCore_sum (a x : Word) (cin : Bool) :
    (addCore a x cin).res.toNat + 256 * (addCore a x cin).carry.toNat =
      a.toNat + x.toNat + cin.toNat := by
  have hcin := cin.toNat_le
  rw [addCore_eq, BitVec.toNat_ofNat]
  by_cases h : a.toNat + x.toNat + cin.toNat > 255
  · rw [decide_eq_true h, Bool.toNat_true]
    omega
  · rw [decide_eq_false h, Bool.toNat_false]
    omega

theorem addCore_res (a x : Word) (cin : Bool) :
    (addCore a x cin).res = a + x + (BitVec.ofBool cin).setWidth 8 := by
  apply BitVec.eq_of_toNat_eq
  have hsum := addCore_sum a x cin
  rw [BitVec.toNat_add, BitVec.toNat_add, toNat_setWidth_ofBool]
  omega

theorem addCore_carry_iff (a x : Word) (cin : Bool) :
    (addCore a x cin).carry = true ↔ a.toNat + x.toNat + cin.toNat > 255 := by
  have hsum := addCore_sum a x cin
  have hcin := cin.toNat_le
  rw [← Bool.toNat_eq_one]
  omega

theorem addCore_overflow_iff_signs (a x : Word) (cin : Bool) :
    (addCore a x cin).overflow = true ↔
      a.getLsbD 7 = x.getLsbD 7 ∧ (addCore a x cin).res.getLsbD 7 ≠ a.getLsbD 7 := by
  rw [addCore_eq, Bool.and_eq_true, beq_iff_eq, bne_iff_ne]

/-- The sign rule is the bound on the signed sum: by `addCore_sum` the signed sum is the signed result but
for the carry and the signs, which cancel unless the operands agree in sign and the result does not. -/
theorem addCore_overflow_iff_not_fits (a x : Word) (cin : Bool) :
    (addCore a x cin).overflow = true ↔ ¬ FitsSigned (a.toInt + x.toInt + cin.toNat) := by
  have hsum := addCore_sum a x cin
  have hcin := cin.toNat_le
  rw [addCore_overflow_iff_signs, FitsSigned, toInt_eq_toNat_sub, toInt_eq_toNat_sub]
  simp only [getLsbD_seven, ne_eq, decide_eq_decide]
  omega

/-- Settles O39, each part a reading of the adder's sum. -/
theorem adderIsExact : Obligations.AdderIsExact := by
  intro a x cin
  have hsum := addCore_sum a x cin
  exact ⟨by omega, addCore_carry_iff a x cin, addCore_overflow_iff_not_fits a x cin,
    addCore_overflow_iff_signs a x cin⟩

/-! ### Subtraction -/

theorem subCore_eq (a b : Word) (bin : Bool) :
    subCore a b bin = ⟨(addCore a (~~~b) (!bin)).res, !(addCore a (~~~b) (!bin)).carry,
      (addCore a (~~~b) (!bin)).overflow⟩ :=
  rfl

/-- The complement adds 255 - b and the complemented borrow 1 - bin, so the sum is the difference and 256
more, which a missing carry takes away: the borrow (R93). -/
theorem subCore_difference (a b : Word) (bin : Bool) :
    ((subCore a b bin).res.toNat : Int) - 256 * (subCore a b bin).carry.toNat =
      (a.toNat : Int) - b.toNat - bin.toNat := by
  have hsum := addCore_sum a (~~~b) (!bin)
  have hcarry := (addCore a (~~~b) (!bin)).carry.toNat_le
  have hbin := bin.toNat_le
  rw [BitVec.toNat_not, toNat_bnot] at hsum
  simp only [subCore_eq, toNat_bnot]
  omega

theorem subCore_res (a b : Word) (bin : Bool) :
    (subCore a b bin).res = a - b - (BitVec.ofBool bin).setWidth 8 := by
  apply BitVec.eq_of_toNat_eq
  have hdiff := subCore_difference a b bin
  have hbin := bin.toNat_le
  rw [BitVec.toNat_sub, BitVec.toNat_sub, toNat_setWidth_ofBool]
  omega

theorem subCore_res_false (a b : Word) : (subCore a b false).res = a - b := by
  simpa using subCore_res a b false

theorem subCore_carry_iff (a b : Word) (bin : Bool) :
    (subCore a b bin).carry = true ↔ a.toNat < b.toNat + bin.toNat := by
  have hdiff := subCore_difference a b bin
  have hbin := bin.toNat_le
  rw [← Bool.toNat_eq_one]
  omega

/-- The signed readings of the adder's operands sum to the signed difference. -/
theorem subCore_overflow_iff_not_fits (a b : Word) (bin : Bool) :
    (subCore a b bin).overflow = true ↔ ¬ FitsSigned (a.toInt - b.toInt - bin.toNat) := by
  have hbin := bin.toNat_le
  have hdiff : a.toInt + (~~~b).toInt + (!bin).toNat = a.toInt - b.toInt - bin.toNat := by
    rw [toInt_compl, toNat_bnot]
    omega
  rw [← hdiff]
  exact addCore_overflow_iff_not_fits a (~~~b) (!bin)

/-- The complement turns the sign of `b` over. -/
theorem subCore_overflow_iff_signs (a b : Word) (bin : Bool) :
    (subCore a b bin).overflow = true ↔
      a.getLsbD 7 ≠ b.getLsbD 7 ∧ (subCore a b bin).res.getLsbD 7 ≠ a.getLsbD 7 := by
  have hsign : a.getLsbD 7 = (~~~b).getLsbD 7 ↔ a.getLsbD 7 ≠ b.getLsbD 7 := by
    simp [Bool.eq_not]
  rw [← hsign]
  exact addCore_overflow_iff_signs a (~~~b) (!bin)

/-- Settles O40: the adder on the complement, each closed form a reading of the difference. -/
theorem subtractionIsExact : Obligations.SubtractionIsExact := by
  intro a b bin
  have hdiff := subCore_difference a b bin
  exact ⟨subCore_eq a b bin, by omega, subCore_carry_iff a b bin,
    subCore_overflow_iff_not_fits a b bin, subCore_overflow_iff_signs a b bin⟩

/-- The sign of the difference is right unless it overflowed, and then it is the wrong one (R96). -/
theorem subCore_overflow_xor_sign_iff (a b : Word) :
    ((subCore a b false).overflow ^^ (subCore a b false).res.getLsbD 7) = true ↔ a.toInt < b.toInt := by
  have hdiff := subCore_difference a b false
  have hfits := subCore_overflow_iff_not_fits a b false
  rw [Bool.toNat_false, FitsSigned] at hfits
  rw [Bool.toNat_false] at hdiff
  rw [Bool.xor_iff_ne, ne_eq, Bool.eq_iff_iff, hfits, getLsbD_seven, decide_eq_true_iff,
    toInt_eq_toNat_sub a, toInt_eq_toNat_sub b]
  omega

end Sys2Proof.Machine

namespace Sys2Proof.Machine

/-! SUPPORT. What an ALU instruction leaves: its result, its flags and the frame of its write-back, said
once for the seven that write a register (R75, R76, R89, R98), and for `CMP`, which writes flags alone
(R96). -/

open Sys2Proof.Safety

/-! ### The meanings -/

theorem exec_add (r : Reg) (b : Operand) (s : State) :
    exec (.add r b) s = .next (s.finishAlu r b.length (addAlu (s.reg r) (s.operandValue b) false)) :=
  rfl

theorem exec_adc (r : Reg) (b : Operand) (s : State) :
    exec (.adc r b) s =
      .next (s.finishAlu r b.length (addAlu (s.reg r) (s.operandValue b) s.flags.c)) :=
  rfl

theorem exec_sub (r : Reg) (b : Operand) (s : State) :
    exec (.sub r b) s = .next (s.finishAlu r b.length (subAlu (s.reg r) (s.operandValue b) false)) :=
  rfl

theorem exec_sbc (r : Reg) (b : Operand) (s : State) :
    exec (.sbc r b) s =
      .next (s.finishAlu r b.length (subAlu (s.reg r) (s.operandValue b) s.flags.c)) :=
  rfl

theorem exec_cmp (r : Reg) (b : Operand) (s : State) :
    exec (.cmp r b) s =
      .next ((s.setFlags (subAlu (s.reg r) (s.operandValue b) false).flags).finish b.length) :=
  rfl

theorem exec_and (r : Reg) (b : Operand) (s : State) :
    exec (.and r b) s = .next (s.finishAlu r b.length (logicAlu (s.reg r &&& s.operandValue b))) :=
  rfl

theorem exec_or (r : Reg) (b : Operand) (s : State) :
    exec (.or r b) s = .next (s.finishAlu r b.length (logicAlu (s.reg r ||| s.operandValue b))) :=
  rfl

theorem exec_eor (r : Reg) (b : Operand) (s : State) :
    exec (.eor r b) s = .next (s.finishAlu r b.length (logicAlu (s.reg r ^^^ s.operandValue b))) :=
  rfl

/-! ### The write-back -/

theorem resultFlags_flagsOf (c v : Bool) (res : Word) : ResultFlags res (flagsOf c v res) :=
  ⟨beq_iff_eq, rfl⟩

/-- The write-back of a result `res` with the flags `c` and `v` writes `r` and the flags, and nothing else
but `pc`. `addAlu`, `subAlu` and `logicAlu` are all of the form of the premise. -/
theorem alu_of_exec {i : Instr} {s : State} {r : Reg} {len : Nat} {res : Word} {c v : Bool}
    (h : exec i s = .next (s.finishAlu r len ⟨res, flagsOf c v res⟩)) :
    ∃ t, exec i s = .next t ∧ t.reg r = res ∧ t.flags.c = c ∧ t.flags.v = v ∧
      ResultFlags res t.flags ∧ SameRegsBut r s t ∧ Advanced len s t ∧ SameMemory s t ∧ SamePorts s t := by
  have hflags := s.finishAlu_flags r len ⟨res, flagsOf c v res⟩
  refine ⟨_, h, s.finishAlu_reg r len _, congrArg Flags.c hflags, congrArg Flags.v hflags, ?_, ?_, ?_, ?_, ?_⟩
  · rw [hflags]
    exact resultFlags_flagsOf c v res
  · exact fun r' hne => s.finishAlu_reg_other r r' len _ hne
  · exact ⟨s.finishAlu_pc r len _, s.finishAlu_outcome r len _⟩
  · exact s.finishAlu_readWord r len _
  · exact ⟨s.finishAlu_obuf r len _, s.finishAlu_ibuf r len _, s.finishAlu_draws r len _⟩

/-! ### ADD, ADC, SUB, SBC -/

/-- Settles O41: the adder with no carry in. -/
theorem addWritesSumAndFlags : Obligations.AddWritesSumAndFlags := by
  intro r b s
  obtain ⟨t, ht, hreg, hc, hv, hresult, hframe⟩ := alu_of_exec (exec_add r b s)
  refine ⟨t, ht, ?_, ?_, ?_, hreg ▸ hresult, hframe⟩
  · rw [hreg]
    simpa using addCore_res (s.reg r) (s.operandValue b) false
  · rw [hc]
    exact addCore_carry_iff (s.reg r) (s.operandValue b) false
  · rw [hv]
    simpa using addCore_overflow_iff_not_fits (s.reg r) (s.operandValue b) false

/-- Settles O42: the adder with the carry before the step. -/
theorem adcWritesSumAndFlags : Obligations.AdcWritesSumAndFlags := by
  intro r b s
  obtain ⟨t, ht, hreg, hc, hv, hresult, hframe⟩ := alu_of_exec (exec_adc r b s)
  refine ⟨t, ht, hreg.trans (addCore_res ..), ?_, ?_, hreg ▸ hresult, hframe⟩
  · rw [hc]
    exact addCore_carry_iff ..
  · rw [hv]
    exact addCore_overflow_iff_not_fits ..

/-- Settles O43: subtraction with no borrow in. -/
theorem subWritesDifferenceAndFlags : Obligations.SubWritesDifferenceAndFlags := by
  intro r b s
  obtain ⟨t, ht, hreg, hc, hv, hresult, hframe⟩ := alu_of_exec (exec_sub r b s)
  refine ⟨t, ht, hreg.trans (subCore_res_false ..), ?_, ?_, hreg ▸ hresult, hframe⟩
  · rw [hc]
    exact subCore_carry_iff (s.reg r) (s.operandValue b) false
  · rw [hv]
    simpa using subCore_overflow_iff_not_fits (s.reg r) (s.operandValue b) false

/-- Settles O44: subtraction with the borrow before the step. -/
theorem sbcWritesDifferenceAndFlags : Obligations.SbcWritesDifferenceAndFlags := by
  intro r b s
  obtain ⟨t, ht, hreg, hc, hv, hresult, hframe⟩ := alu_of_exec (exec_sbc r b s)
  refine ⟨t, ht, hreg.trans (subCore_res ..), ?_, ?_, hreg ▸ hresult, hframe⟩
  · rw [hc]
    exact subCore_carry_iff ..
  · rw [hv]
    exact subCore_overflow_iff_not_fits ..

/-! ### AND, OR, EOR -/

/-- Settles O47: the three write-backs differ in the result alone. -/
theorem logicWritesResultAndFlags : Obligations.LogicWritesResultAndFlags :=
  fun r b s => ⟨alu_of_exec (exec_and r b s), alu_of_exec (exec_or r b s), alu_of_exec (exec_eor r b s)⟩

/-! ### CMP, and the branches after it -/

/-- Settles O45: the flags are those of the difference, which is 0 only of equal words. -/
theorem cmpComparesOperands : Obligations.CmpComparesOperands := by
  intro r b s
  have hpc := s.setFlags_pc (subAlu (s.reg r) (s.operandValue b) false).flags
  obtain ⟨hregs, hflags, hmem, hports⟩ :=
    (ends_finish (s.setFlags (subAlu (s.reg r) (s.operandValue b) false).flags) b.length).undisturbed
  have hres := subCore_res_false (s.reg r) (s.operandValue b)
  refine ⟨_, exec_cmp r b s, ?_, ?_, ?_, ?_, ?_, ?_, advanced_finish_of_pc hpc b.length, hmem, hports⟩
  · calc (subCore (s.reg r) (s.operandValue b) false).res == 0 ↔ s.reg r - s.operandValue b = 0 := by
          rw [hres, beq_iff_eq]
      _ ↔ s.reg r = s.operandValue b := sub_eq_zero
  · exact subCore_carry_iff (s.reg r) (s.operandValue b) false
  · exact (subCore_overflow_iff_not_fits (s.reg r) (s.operandValue b) false).trans (by simp)
  · exact congrArg (BitVec.getLsbD · 7) hres
  · exact subCore_overflow_xor_sign_iff (s.reg r) (s.operandValue b)
  · exact fun r' => (hregs r').trans (s.reg_setFlags _ r')

/-- A branch whose condition means `p` is taken exactly where `p` holds (R113). -/
theorem exists_branched {c : Cond} {s : State} {p : Prop} (d : Word)
    (hcond : s.condHolds ioCondWired c = true ↔ p) :
    ∃ t, exec (branchInstr c d) s = .next t ∧ Branched p d s t := by
  refine ⟨_, exec_branchInstr c d s, ?_⟩
  rcases s.branch_cases c d with ⟨hholds, h⟩ | ⟨hfails, h⟩
  · have hp : p := hcond.mp hholds
    rw [h]
    exact ⟨fun _ => s.jumpTo_pc d, fun hnot => absurd hp hnot, s.jumpTo_outcome d⟩
  · have hp : ¬ p := fun hp => Bool.false_ne_true (hfails.symm.trans (hcond.mpr hp))
    rw [h]
    exact ⟨fun hp' => absurd hp' hp, fun _ => s.finish_pc 2, s.finish_outcome 2⟩

/-- Settles O55: the predicate of each branch, on the flags `CMP` leaves, is the order of the operands. -/
theorem compareThenBranch : Obligations.CompareThenBranch := by
  intro r b d s t ht x y
  obtain ⟨t', ht', hz, hc, -, -, hlt, -⟩ := cmpComparesOperands r b s
  cases ht.symm.trans ht'
  have hz' : t.flags.z = true ↔ x.toInt = y.toInt := hz.trans BitVec.toInt_inj.symm
  have hge : (!(t.flags.v ^^ t.flags.n)) = true ↔ x.toInt ≥ y.toInt := by
    rw [Bool.not_eq_true', ← Bool.not_eq_true, hlt, not_lt]
  refine ⟨exists_branched (c := .carry) d hc, exists_branched (c := .zero) d hz,
    exists_branched (c := .signedLess) d hlt, exists_branched (c := .signedLessOrEqual) d ?_,
    exists_branched (c := .signedGreaterOrEqual) d hge, exists_branched (c := .signedGreater) d ?_⟩
  · calc ((t.flags.v ^^ t.flags.n) || t.flags.z) = true ↔ x.toInt < y.toInt ∨ x.toInt = y.toInt := by
          rw [Bool.or_eq_true, hlt, hz']
      _ ↔ x.toInt ≤ y.toInt := le_iff_lt_or_eq.symm
  · calc (!(t.flags.v ^^ t.flags.n) && !t.flags.z) = true ↔ x.toInt ≥ y.toInt ∧ ¬ x.toInt = y.toInt := by
          rw [Bool.and_eq_true, hge, Bool.not_eq_true' t.flags.z, ← Bool.not_eq_true, hz']
      _ ↔ x.toInt > y.toInt := by omega

/-! ### Chains through `C` -/

/-- `ADD` and `ADC` leave the sum with its carry. -/
theorem sum_of_exec {i : Instr} {s t : State} {r : Reg} {b : Operand} {cin : Bool}
    (hi : exec i s = .next (s.finishAlu r b.length (addAlu (s.reg r) (s.operandValue b) cin)))
    (ht : exec i s = .next t) :
    (t.reg r).toNat + 256 * t.flags.c.toNat =
      (s.reg r).toNat + (s.operandValue b).toNat + cin.toNat := by
  obtain ⟨t', ht', hreg, hc, -⟩ := alu_of_exec hi
  cases ht'.symm.trans ht
  rw [hreg, hc]
  exact addCore_sum ..

/-- `SUB` and `SBC` leave the difference with its borrow. -/
theorem difference_of_exec {i : Instr} {s t : State} {r : Reg} {b : Operand} {bin : Bool}
    (hi : exec i s = .next (s.finishAlu r b.length (subAlu (s.reg r) (s.operandValue b) bin)))
    (ht : exec i s = .next t) :
    ((t.reg r).toNat : Int) - 256 * t.flags.c.toNat =
      (s.reg r).toNat - (s.operandValue b).toNat - bin.toNat := by
  obtain ⟨t', ht', hreg, hc, -⟩ := alu_of_exec hi
  cases ht'.symm.trans ht
  rw [hreg, hc]
  exact subCore_difference ..

/-- Settles O46: `C` between the two instructions is the carry out (borrow) of the low equation and the
carry in of the high one, so it cancels in the low equation and 256 times the high one. -/
theorem carryChainsAre16Bit : Obligations.CarryChainsAre16Bit := by
  intro r r' b b' s u x y
  constructor
  · intro t v ht hkept hv
    have hlow := sum_of_exec (exec_add r b s) ht
    have hhigh := sum_of_exec (exec_adc r' b' u) hv
    have hcarry := v.flags.c.toNat_le
    rw [Bool.toNat_false] at hlow
    rw [hkept] at hhigh
    rw [← Bool.toNat_eq_one]
    omega
  · intro t v ht hkept hv
    have hlow := difference_of_exec (exec_sub r b s) ht
    have hhigh := difference_of_exec (exec_sbc r' b' u) hv
    have hborrow := v.flags.c.toNat_le
    rw [Bool.toNat_false] at hlow
    rw [hkept] at hhigh
    rw [← Bool.toNat_eq_one]
    omega

end Sys2Proof.Machine

namespace Sys2Proof.Machine

/-! SUPPORT. The two that execute of the shifts and rotates: the result of `SRA` as the library's arithmetic
shift, that of `RLL` as the library's shift with a bit entering, and the nine bits of `C` and the register
as one word, which `RLL` turns by one place (R103, R104, R112). Then the six that halt (R111). -/

open Sys2Proof.Safety

/-! ### SRA -/

/-- Only bit 7 of `a` passes the mask, and it lands where the logical shift leaves 0. -/
theorem mask_or_shift_eq_sshiftRight (a : Word) : (a &&& 0x80#8) ||| (a >>> 1) = a.sshiftRight 1 := by
  have hmask : 0x80#8 = BitVec.twoPow 8 7 := rfl
  ext i hi
  rw [hmask, BitVec.getElem_or, BitVec.getElem_and, BitVec.getElem_twoPow, BitVec.getElem_ushiftRight,
    BitVec.getElem_sshiftRight]
  by_cases htop : i = 7
  · subst htop
    simp [BitVec.msb_eq_getLsbD_last]
  · have hlow : 1 + i < 8 := by omega
    simp [htop, hlow]

theorem exec_sra (r : Reg) (s : State) :
    exec (.sra r) s = .next (s.finishAlu r 1 ⟨(s.reg r).sshiftRight 1,
      flagsOf ((s.reg r).getLsbD 0) s.flags.v ((s.reg r).sshiftRight 1)⟩) := by
  rw [← mask_or_shift_eq_sshiftRight]
  rfl

/-- Settles O48: the library's arithmetic shift by one halves towards minus infinity and keeps the sign. -/
theorem sraHalvesSigned : Obligations.SraHalvesSigned := by
  intro r s
  obtain ⟨t, ht, hreg, hc, hv, hresult, hframe⟩ := alu_of_exec (exec_sra r s)
  rw [← hreg] at hresult
  refine ⟨t, ht, ?_, hc, hv, hresult, ?_, hframe⟩
  · calc (t.reg r).toInt = (s.reg r).toInt >>> (1 : Nat) := by rw [hreg, BitVec.toInt_sshiftRight]
      _ = (s.reg r).toInt / 2 := Int.shiftRight_eq_div_pow ..
  · obtain ⟨_, hn⟩ := hresult
    calc t.flags.n = ((s.reg r).sshiftRight 1).msb := by rw [hn, hreg]; rfl
      _ = (s.reg r).getLsbD 7 := BitVec.msb_sshiftRight

/-! ### RLL -/

theorem shift_or_carry_eq_shiftConcat (a : Word) (c : Bool) :
    (a <<< 1) ||| (BitVec.ofBool c).setWidth 8 = a.shiftConcat c := by
  ext i hi
  rw [BitVec.getElem_or, BitVec.getElem_shiftLeft, BitVec.getElem_setWidth, BitVec.getLsbD_ofBool,
    BitVec.getElem_shiftConcat]
  by_cases h : i = 0 <;> simp [h]

theorem exec_rll (r : Reg) (s : State) :
    exec (.rll r) s = .next (s.finishAlu r 1 ⟨(s.reg r).shiftConcat s.flags.c,
      flagsOf ((s.reg r).getLsbD 7) s.flags.v ((s.reg r).shiftConcat s.flags.c)⟩) := by
  rw [← shift_or_carry_eq_shiftConcat]
  rfl

/-- The nine bits, read as a number, double with the old `C` entering below (R104). -/
theorem shiftConcat_sum (a : Word) (c : Bool) :
    256 * (a.getLsbD 7).toNat + (a.shiftConcat c).toNat = 2 * a.toNat + c.toNat := by
  have hc := c.toNat_le
  rw [BitVec.toNat_shiftConcat, Nat.shiftLeft_eq, getLsbD_seven]
  by_cases h : 128 ≤ a.toNat
  · rw [decide_eq_true h, Bool.toNat_true]
    omega
  · rw [decide_eq_false h, Bool.toNat_false]
    omega

/-- Settles O49: the result is the shift with the old `C` entering, whose bit 7 is the old bit 6. -/
theorem rllRotatesThroughCarry : Obligations.RllRotatesThroughCarry := by
  intro r s
  obtain ⟨t, ht, hreg, hc, hv, hresult, hframe⟩ := alu_of_exec (exec_rll r s)
  rw [← hreg] at hresult
  refine ⟨t, ht, ?_, hc, ?_, hv, hresult, ?_, hframe⟩
  · rw [hreg, shift_or_carry_eq_shiftConcat]
  · rw [hc, hreg]
    exact shiftConcat_sum ..
  · obtain ⟨_, hn⟩ := hresult
    rw [hn, hreg, BitVec.getLsbD_shiftConcat]
    rfl

/-! ### Nine rotations -/

/-- The nine bits `C, A[7], ..., A[0]` that `RLL` permutes (R112), `C` the highest. -/
def State.ring (s : State) (r : Reg) : BitVec 9 := BitVec.cons s.flags.c (s.reg r)

theorem cons_eq_cons_iff {c c' : Bool} {a a' : Word} :
    BitVec.cons c a = BitVec.cons c' a' ↔ a = a' ∧ c = c' := by
  constructor
  · intro h
    exact ⟨by simpa using congrArg (BitVec.setWidth 8) h, by simpa using congrArg BitVec.msb h⟩
  · rintro ⟨rfl, rfl⟩
    rfl

/-- A turn of the nine bits by one place takes bit 7 to the top and the top bit to the bottom. -/
theorem rotateLeft_cons (c : Bool) (a : Word) :
    (BitVec.cons c a).rotateLeft 1 = BitVec.cons (a.getLsbD 7) (a.shiftConcat c) := by
  ext i hi
  rw [BitVec.getElem_rotateLeft, BitVec.getElem_cons]
  by_cases hbottom : i = 0
  · subst hbottom
    simp [BitVec.getElem_cons]
  · by_cases htop : i = 8
    · subst htop
      simp [BitVec.getElem_cons]
    · have hinner : i - 1 ≠ 8 := by omega
      simp [BitVec.getElem_cons, BitVec.getElem_shiftConcat, hbottom, htop, hinner]

theorem ring_of_exec_rll {s t : State} {r : Reg} (h : exec (.rll r) s = .next t) :
    t.ring r = (s.ring r).rotateLeft 1 := by
  obtain ⟨t', ht', hreg, hc, -⟩ := alu_of_exec (exec_rll r s)
  cases ht'.symm.trans h
  rw [State.ring, State.ring, hreg, hc, rotateLeft_cons]

theorem rotateLeft_succ {w : Nat} (x : BitVec w) (n : Nat) :
    x.rotateLeft (n + 1) = (x.rotateLeft n).rotateLeft 1 := by
  apply BitVec.eq_of_getMsbD_eq
  intro i hi
  have hone : (1 + i) % w < w := Nat.mod_lt _ (by omega)
  simp only [BitVec.getMsbD_rotateLeft, hi, hone, decide_true, Bool.true_and, Nat.add_mod_mod]
  rw [Nat.add_assoc]

theorem rotateLeft_width {w : Nat} (x : BitVec w) : x.rotateLeft w = x := by
  rw [← BitVec.rotateLeft_mod_eq_rotateLeft, Nat.mod_self]
  simp [BitVec.rotateLeft_def, BitVec.ushiftRight_eq_zero]

/-- One more `RLL` is one more place. -/
theorem ring_of_exec_rll_succ {s0 s t : State} {r : Reg} {n : Nat} (hs : s.ring r = (s0.ring r).rotateLeft n)
    (h : exec (.rll r) s = .next t) : t.ring r = (s0.ring r).rotateLeft (n + 1) := by
  rw [ring_of_exec_rll h, hs, ← rotateLeft_succ]

/-- Eight places and one more are none, so eight leave the ring alone just where one does. -/
theorem rotateLeft_eight_eq_self_iff (x : BitVec 9) : x.rotateLeft 8 = x ↔ x.rotateLeft 1 = x := by
  constructor
  · intro h
    calc x.rotateLeft 1 = (x.rotateLeft 8).rotateLeft 1 := by rw [h]
      _ = x.rotateLeft 9 := (rotateLeft_succ x 8).symm
      _ = x := rotateLeft_width x
  · intro h
    have hevery (n : Nat) : x.rotateLeft (n + 1) = x := by
      induction n with
      | zero => exact h
      | succ n ih => rw [rotateLeft_succ, ih, h]
    exact hevery 7

/-- One place leaves the nine bits alone only where 256 times `C` and the register equal twice the register
and `C`, that is, where the register is 255 times `C`. -/
theorem rotateLeft_cons_eq_self_iff (c : Bool) (a : Word) :
    (BitVec.cons c a).rotateLeft 1 = BitVec.cons c a ↔ a = 0x00 ∧ c = false ∨ a = 0xFF ∧ c = true := by
  constructor
  · rw [rotateLeft_cons, cons_eq_cons_iff]
    rintro ⟨ha, hc⟩
    have hsum := shiftConcat_sum a c
    rw [ha, hc] at hsum
    cases c with
    | false =>
      have hzero : a.toNat = 0 := by rw [Bool.toNat_false] at hsum; omega
      exact .inl ⟨BitVec.eq_of_toNat_eq hzero, rfl⟩
    | true =>
      have hall : a.toNat = 255 := by rw [Bool.toNat_true] at hsum; omega
      exact .inr ⟨BitVec.eq_of_toNat_eq hall, rfl⟩
  · rintro (⟨rfl, rfl⟩ | ⟨rfl, rfl⟩) <;> rfl

/-- Settles O50: nine places turn the ring once round; eight leave it alone only where one does. -/
theorem nineRotationsRestore : Obligations.NineRotationsRestore := by
  intro r s0 s1 s2 s3 s4 s5 s6 s7 s8 s9 e1 e2 e3 e4 e5 e6 e7 e8 e9
  have h3 := ring_of_exec_rll_succ (ring_of_exec_rll_succ (ring_of_exec_rll e1) e2) e3
  have h6 := ring_of_exec_rll_succ (ring_of_exec_rll_succ (ring_of_exec_rll_succ h3 e4) e5) e6
  have h8 : s8.ring r = (s0.ring r).rotateLeft 8 :=
    ring_of_exec_rll_succ (ring_of_exec_rll_succ h6 e7) e8
  have h9 : s9.ring r = s0.ring r := (ring_of_exec_rll_succ h8 e9).trans (rotateLeft_width _)
  constructor
  · exact cons_eq_cons_iff.mp h9
  · calc s8.reg r = s0.reg r ∧ s8.flags.c = s0.flags.c ↔ s8.ring r = s0.ring r := cons_eq_cons_iff.symm
      _ ↔ (s0.ring r).rotateLeft 1 = s0.ring r := by rw [h8, rotateLeft_eight_eq_self_iff]
      _ ↔ s0.reg r = 0x00 ∧ s0.flags.c = false ∨ s0.reg r = 0xFF ∧ s0.flags.c = true :=
        rotateLeft_cons_eq_self_iff ..

/-! ### The six that halt -/

/-- Settles O51: the response of each is the halt, and taking it disturbs nothing. -/
theorem unsupportedShiftsHalt : Obligations.UnsupportedShiftsHalt := by
  intro r s i hi
  have hresponse : instrResponse i = .halt .unsupportedSubMode := by
    simp only [List.mem_cons, List.not_mem_nil, or_false] at hi
    rcases hi with rfl | rfl | rfl | rfl | rfl | rfl <;> rfl
  have hexec := exec_answers i s
  rw [hresponse] at hexec
  exact ⟨_, hexec, halted_takeHalt s _, (ends_takeHalt s _).undisturbed⟩

end Sys2Proof.Machine

namespace Sys2Proof.Machine

/-! SUPPORT. `JAL` and `JR`, then the branches under every configuration: where `pc` goes, and that nothing
else is disturbed (R113 to R131). -/

open Sys2Proof.Safety

/-! ### JAL and JR -/

theorem exec_jal (d : Word) (s : State) : exec (.jal d) s = .next ((s.setReg .acc (s.pc + 2)).jumpTo d) := rfl

theorem exec_jr (s : State) : exec .jr s = .next (s.jumpTo s.acc) := rfl

/-- Settles O57: the link writes `acc` alone, and the jump that ends the step disturbs none of it. -/
theorem jalLinksAndJumps : Obligations.JalLinksAndJumps := by
  intro d s
  obtain ⟨hregs, hflags, hmem, hports⟩ := (ends_jumpTo (s.setReg .acc (s.pc + 2)) d).undisturbed
  refine ⟨_, exec_jal d s, hregs .acc, State.jumpTo_pc .., State.jumpTo_outcome .., hregs .ix, ?_, ?_, hports⟩
  · exact hflags.trans (s.setReg_flags .acc _)
  · exact fun a => (hmem a).trans (s.readWord_setReg .acc _ a)

/-- Settles O58: `JR` only ends its step, with a jump to the accumulator. -/
theorem jrJumpsThroughAccumulator : Obligations.JrJumpsThroughAccumulator :=
  fun s => ⟨_, exec_jr s, s.jumpTo_pc _, s.jumpTo_outcome _, (ends_jumpTo s _).undisturbed⟩

/-! ### Call and return -/

/-- Under the spec's numbers a first word that is `JR`'s is executed as `JR` (R45, R131). -/
theorem step_of_firstWord_jr {s : State} (hfirst : s.firstWord = encodeFirst defaultEncoding .jr) :
    step s = exec .jr s := by
  obtain ⟨hstep, -⟩ := stepUnderEveryConfiguration
  calc step s = execWith defaultConfig .jr s :=
        hstep defaultConfig distinctCodes_defaultEncoding .jr s rfl hfirst nofun
    _ = exec .jr s := execWith_default .jr s

/-- Settles O59: `JAL` writes no memory, so the word of `JR` still stands at its target, and `JR` jumps
to the link `JAL` left in `acc`. -/
theorem jalThenJrReturns : Obligations.JalThenJrReturns := by
  intro d s hfetch htarget
  obtain ⟨t, ht, htacc, htpc, -, htix, htflags, htmem, -⟩ := jalLinksAndJumps d s
  obtain ⟨u, hu, hupc, -, huregs, huflags, humem, -⟩ := jrJumpsThroughAccumulator t
  have hfirst : t.firstWord = encodeFirst defaultEncoding .jr := by
    rw [State.firstWord, htpc, htmem, htarget]
  have hcall : step s = exec (.jal d) s := by rw [step_eq, hfetch]
  refine ⟨t, u, hcall.trans ht, (step_of_firstWord_jr hfirst).trans hu, ?_, ?_, ?_, ?_, ?_⟩
  · exact hupc.trans htacc
  · exact (huregs .acc).trans htacc
  · exact (huregs .ix).trans htix
  · exact huflags.trans htflags
  · exact fun a => (humem a).trans (htmem a)

/-! ### The branches -/

theorem State.branchWith_pc (s : State) (w : Bool) (c : Cond) (d : Word) :
    (s.branchWith w c d).pc = if s.condHolds w c then d else s.pc + 2 :=
  apply_ite State.pc _ _ _

theorem undisturbed_branchWith (s : State) (w : Bool) (c : Cond) (d : Word) :
    Undisturbed s (s.branchWith w c d) :=
  ⟨s.reg_branchWith w c d, s.branchWith_flags w c d, s.readWord_branchWith w c d,
    s.branchWith_obuf w c d, s.branchWith_ibuf w c d, s.branchWith_draws w c d⟩

/-- A branch whose condition means `p` follows `p`, the I/O conditions wired or not (R113). -/
theorem branched_branchWith {s : State} {w : Bool} {c : Cond} {p : Prop} (d : Word)
    (hcond : s.condHolds w c = true ↔ p) : Branched p d s (s.branchWith w c d) := by
  have hpc := s.branchWith_pc w c d
  refine ⟨fun hp => ?_, fun hp => ?_, s.branchWith_outcome w c d⟩
  · rw [hpc, if_pos (hcond.mpr hp)]
  · rw [hpc, if_neg (mt hcond.mp hp)]

/-- The same of the meaning of the branch, with its frame. -/
theorem exists_branched_undisturbed {c : Cond} {s : State} {p : Prop} (d : Word)
    (hcond : s.condHolds ioCondWired c = true ↔ p) :
    ∃ t, exec (branchInstr c d) s = .next t ∧ Branched p d s t ∧ Undisturbed s t :=
  ⟨_, exec_branchInstr c d s, branched_branchWith d hcond, undisturbed_branchWith s _ c d⟩

/-- The shape of the two strict conditions, `BP`'s and `BGT`'s. -/
theorem not_and_not_eq_true_iff (a b : Bool) : (!a && !b) = true ↔ a = false ∧ b = false := by
  rw [Bool.and_eq_true, Bool.not_eq_true', Bool.not_eq_true']

/-- Settles O52: the condition of each branch, read as a proposition on the flags. -/
theorem flagBranchesFollowPredicates : Obligations.FlagBranchesFollowPredicates := by
  intro d s
  exact ⟨exists_branched_undisturbed (c := .always) d (iff_true_intro rfl),
    exists_branched_undisturbed (c := .notZero) d (Bool.not_eq_true' _).to_iff,
    exists_branched_undisturbed (c := .zeroOrPositive) d (Bool.not_eq_true' _).to_iff,
    exists_branched_undisturbed (c := .positive) d (not_and_not_eq_true_iff ..),
    exists_branched_undisturbed (c := .noCarry) d (Bool.not_eq_true' _).to_iff,
    exists_branched_undisturbed (c := .onOverflow) d Iff.rfl,
    exists_branched_undisturbed (c := .zero) d Iff.rfl,
    exists_branched_undisturbed (c := .negative) d Iff.rfl,
    exists_branched_undisturbed (c := .zeroOrNegative) d Bool.or_eq_true_iff,
    exists_branched_undisturbed (c := .carry) d Iff.rfl⟩

/-- Settles O53: `BGE` and `BLT` read `V ^ N` alone, `BGT` and `BLE` read `Z` with it. -/
theorem signedBranchesFollowPredicates : Obligations.SignedBranchesFollowPredicates := by
  intro d s
  exact ⟨exists_branched_undisturbed (c := .signedGreaterOrEqual) d (Bool.not_eq_true' _).to_iff,
    exists_branched_undisturbed (c := .signedGreater) d (not_and_not_eq_true_iff ..),
    exists_branched_undisturbed (c := .signedLess) d Iff.rfl,
    exists_branched_undisturbed (c := .signedLessOrEqual) d Bool.or_eq_true_iff⟩

/-! ### The two I/O conditions -/

/-- Whether the I/O conditions are wired matters to those two alone (R118, R126). -/
theorem State.condHolds_of_not_io (s : State) {c : Cond} (hi : c ≠ .noInput) (ho : c ≠ .noOutput)
    (w w' : Bool) : s.condHolds w c = s.condHolds w' c := by
  cases c with
  | noInput => exact absurd rfl hi
  | noOutput => exact absurd rfl ho
  | _ => rfl

/-- Settles O56: both I/O conditions are conjunctions of the parameter with a buffer flag. -/
theorem wiredConditionsReadBufferFlags : Obligations.WiredConditionsReadBufferFlags := by
  refine ⟨fun k d s => ?_, fun s c => ⟨rfl, rfl, rfl, rfl, fun hi ho => s.condHolds_of_not_io hi ho _ _⟩⟩
  have hinput : s.condHolds k.ioCondWired .noInput = true ↔ k.ioCondWired = true ∧ s.ibuf.flag = false := by
    rw [State.condHolds, Bool.and_eq_true, Bool.not_eq_true']
  have houtput : s.condHolds k.ioCondWired .noOutput = true ↔ k.ioCondWired = true ∧ s.obuf.flag = true :=
    Bool.and_eq_true_iff
  exact ⟨⟨_, rfl, branched_branchWith d hinput, undisturbed_branchWith ..⟩,
    ⟨_, rfl, branched_branchWith d houtput, undisturbed_branchWith ..⟩⟩

/-- A branch whose predicate fails only advances. -/
theorem advanced_of_branched {p : Prop} {d : Word} {s t : State} (h : Branched p d s t) (hp : ¬ p) :
    Advanced 2 s t := by
  obtain ⟨-, hpc, houtcome⟩ := h
  exact ⟨hpc hp, houtcome⟩

/-- Settles O54: what O56 says of the default configuration, which is not wired. -/
theorem ioBranchesNeverTaken : Obligations.IoBranchesNeverTaken := by
  intro d s
  obtain ⟨hbranches, -⟩ := wiredConditionsReadBufferFlags
  obtain ⟨⟨t, ht, htb, htu⟩, ⟨u, hu, hub, huu⟩⟩ := hbranches defaultConfig d s
  have hwired : ¬ defaultConfig.ioCondWired = true := Bool.false_ne_true
  rw [execWith_default] at ht hu
  exact ⟨⟨t, ht, advanced_of_branched htb (not_and_of_not_left _ hwired), htu⟩,
    ⟨u, hu, advanced_of_branched hub (not_and_of_not_left _ hwired), huu⟩⟩

end Sys2Proof.Machine

namespace Sys2Proof.Machine

/-! SUPPORT. The halts as the driver sees them: a step that reports one has only taken it (R139, R140).
Then the base case of the canonical form, the reset (R151, R154). -/

open Sys2Proof.Safety

/-! ### Halts -/

/-- An answer that records a halt is the state that takes it: an answer of `Continue` records no halt. -/
theorem AnswersWith.eq_takeHalt {x : Host.Outcome State Fault Refusal} {s t : State} {o : StepOutcome}
    {r : HaltReason} (h : AnswersWith x s o) (ht : x = .next t) (hout : t.outcome = some (.halt r)) :
    t = s.takeHalt r := by
  cases o with
  | halt r' =>
    have htaken : x = .next (s.takeHalt r') := h
    cases ht.symm.trans htaken
    cases (s.takeHalt_outcome r').symm.trans hout
    rfl
  | continues =>
    obtain ⟨u, hu, hcont⟩ := h
    cases ht.symm.trans hu
    cases hcont.symm.trans hout

/-- Settles O12: whatever the first word, the step that records a halt took it, and taking a halt is the
update of `pc` and the outcome. -/
theorem haltChangesOnlyPc : Obligations.HaltChangesOnlyPc := by
  intro s t r ht hout
  have hanswers : AnswersWith (step s) s (responseOfWord s.firstWord) :=
    stepWith_answers (c := defaultConfig) rfl s
  calc t = s.takeHalt r := hanswers.eq_takeHalt ht hout
    _ = { s with pc := s.pc + 1, outcome := some (.halt r) } := rfl

theorem exec_hlt (s : State) : exec .hlt s = .next (s.takeHalt .haltInstruction) := rfl

/-- Settles O29: `HLT` only takes its halt, which disturbs nothing. -/
theorem hltHaltsNormally : Obligations.HltHaltsNormally :=
  fun s => ⟨_, exec_hlt s, halted_takeHalt s _, (ends_takeHalt s _).undisturbed⟩

/-! ### Reset -/

/-- Settles O17: at reset nothing has been written, and the empty list is canonical. -/
theorem resetMemoryIsCanonical : Obligations.ResetMemoryIsCanonical := by
  obtain ⟨-, -, -, -, -, -, hmem, -⟩ := resetStateValues
  rw [Obligations.ResetMemoryIsCanonical, MemoryCanonical, hmem]
  exact Memory.wf_nil

end Sys2Proof.Machine
